-- ==== Sys2Proof/Word.lean ====
section
/-! DEFINITION. The word types of the block and the two names of a boundary policy (00_scope.md R6, R7). -/

namespace Sys2Proof

/-- A command word `cmd[23:0]` (R50). -/
abbrev CmdWord := BitVec 24

/-- One byte of a bank (R7). -/
abbrev Byte := BitVec 8

/-- A coordinate field, XW = 6 bits (R6). -/
abbrev Coord := BitVec 6

/-- A byte index, IDXW = 9 bits, so exactly 0..511 (R6, R30). -/
abbrev Idx := BitVec 9

/-- Response data, RSPW = 16 bits (R6). -/
abbrev RspData := BitVec 16

/-- A bank number: `false` is G[0], `true` is G[1]; BACK = 1 - FRONT is `!FRONT` (R8, R11). -/
abbrev Bank := Bool

/-- The boundary policy (R5, R9). -/
inductive Policy where
  | clamped
  | toroidal
  deriving DecidableEq, Repr

end Sys2Proof
end

