-- ==== Sys2Proof/Syntax.lean ====
section
/-! DEFINITION. The eight commands, one constructor per row of the opcode map (30_encoding.md R55). Every operand
is an unsigned immediate of exactly the width its field has (R56), so a term cannot hold an operand that does not fit. -/

namespace Sys2Proof

/-- A decoded command (R55, R58). -/
inductive Instr where
  /-- NOP (R120). -/
  | nop
  /-- RDPX x, y: read one cell (R76). -/
  | rdpx (x y : Coord)
  /-- WRPX x, y, v: write one cell (R77). -/
  | wrpx (x y : Coord) (v : Bool)
  /-- LDB idx, data: write one byte (R78). -/
  | ldb (idx : Idx) (data : Byte)
  /-- RDB idx: read one byte (R79). -/
  | rdb (idx : Idx)
  /-- CFG policy, n8: set side length and policy (R121). -/
  | cfg (policy : Policy) (n8 : BitVec 4)
  /-- EVOLVE: one generation (R99). -/
  | evolve
  /-- STAT: the status word (R122). -/
  | stat
  deriving DecidableEq, Repr

end Sys2Proof
end

