-- ==== Sys2Proof/WellFormed.lean ====
section
/-! DEFINITION. The well-formedness checks. A term of `Instr` is well formed by its types. What can be ill formed is a
command WORD (30_encoding.md R57, written here from that rule's five clauses and not from the decoder) and an ASSEMBLER
LINE (R61, R62: "an operand outside the listed range cannot be encoded and is an assembler error"). -/

namespace Sys2Proof

/-- Clause (a) of R57: op is 0x8..0xF, a reserved opcode. -/
def CmdWord.badOpcode (w : CmdWord) : Bool := decide (8 ≤ w.toNat / 2 ^ 20)

/-- Clause (b) of R57: rz = w[19:17] is not 0. -/
def CmdWord.badRz (w : CmdWord) : Bool := decide (w.toNat / 2 ^ 17 % 8 ≠ 0)

/-- Clause (c) of R57: the format's reserved field is not 0. It is pz = w[16:13] in format P (op 1, 2), cz = w[16:5]
in format C (op 5) and zz = w[16:0] in format Z (op 0, 6, 7); format B (op 3, 4) has none (R51 to R54). -/
def CmdWord.badReserved (w : CmdWord) : Bool :=
  let op := w.toNat / 2 ^ 20
  (decide (op = 1 ∨ op = 2) && decide (w.toNat / 2 ^ 13 % 16 ≠ 0)) ||
  (decide (op = 5) && decide (w.toNat / 2 ^ 5 % 4096 ≠ 0)) ||
  (decide (op = 0 ∨ op = 6 ∨ op = 7) && decide (w.toNat % 2 ^ 17 ≠ 0))

/-- Clause (d) of R57: op = RDPX and v = w[12] is not 0. -/
def CmdWord.badRdpxV (w : CmdWord) : Bool :=
  decide (w.toNat / 2 ^ 20 = 1) && decide (w.toNat / 2 ^ 12 % 2 ≠ 0)

/-- Clause (e) of R57: op = RDB and data = w[7:0] is not 0. -/
def CmdWord.badRdbData (w : CmdWord) : Bool :=
  decide (w.toNat / 2 ^ 20 = 4) && decide (w.toNat % 256 ≠ 0)

/-- A legal command word: none of R57's clauses holds. -/
def CmdWord.wellFormed (w : CmdWord) : Bool :=
  !(w.badOpcode || w.badRz || w.badReserved || w.badRdpxV || w.badRdbData)

/-- One line of the spec's assembler text: the eight commands (R61) and the six pseudo-instructions (R62). Operands
are the numbers as written, so that a number that does not fit can be written and is refused. -/
inductive AsmLine where
  | nop
  | rdpx (x y : Nat)
  | wrpx (x y v : Nat)
  | ldb (idx data : Nat)
  | rdb (idx : Nat)
  /-- `CFG n, policy`: `n` is the side in cells, not the field n8 (R61). -/
  | cfg (n : Nat) (policy : Policy)
  | evolve
  | stat
  | setpx (x y : Nat)
  | clrpx (x y : Nat)
  | fill (b : Nat)
  | clrg
  | seed (bytes : List Nat)
  | dump (n : Nat)
  deriving DecidableEq, Repr

/-- The operand ranges of R61's table and of R62: x, y in 0..63; v in 0..1; idx in 0..511; data in 0..255; the side a
multiple of 8 in 0..120; SEED one to 512 bytes (k ≤ 511); DUMP 1 ≤ n ≤ 512. -/
def AsmLine.wellFormed : AsmLine → Bool
  | .nop | .evolve | .stat | .clrg => true
  | .rdpx x y | .setpx x y | .clrpx x y => decide (x < 64 ∧ y < 64)
  | .wrpx x y v => decide (x < 64 ∧ y < 64 ∧ v < 2)
  | .ldb idx data => decide (idx < 512 ∧ data < 256)
  | .rdb idx => decide (idx < 512)
  | .cfg n _ => decide (n % 8 = 0 ∧ n ≤ 120)
  | .fill b => decide (b < 256)
  | .seed bytes => decide (1 ≤ bytes.length ∧ bytes.length ≤ 512) && bytes.all (fun b => decide (b < 256))
  | .dump n => decide (1 ≤ n ∧ n ≤ 512)

end Sys2Proof
end

