-- ==== Sys2Proof/Decode.lean ====
section
/-! DEFINITION. Decoding (30_encoding.md R50 to R58), then the encoder (R56) and the opcode map as data (R55). -/

namespace Sys2Proof

/-- Why a word is ILLEGAL, by the name of the field of R50 to R54 that is wrong (R57). The block shows only the cause
ILLCMD; the names are the model's, so that a rejection says what it rejects (log entry 16; safe). -/
inductive Illegal where
  | reservedOpcode
  | rzNotZero
  | pzNotZero
  | rdpxWithV
  | rdbWithData
  | czNotZero
  | zzNotZero
  deriving DecidableEq, Repr

/-- The result of decoding: one of the eight commands, or ILLEGAL (R58). -/
inductive Decoded where
  | legal (i : Instr)
  | illegal (why : Illegal)
  deriving DecidableEq, Repr

/-- POLICY encoding: 0 = clamped, 1 = toroidal (R6, R13). -/
def Policy.ofBit (b : Bool) : Policy := if b then .toroidal else .clamped

/-- The bit of a policy (R6, R13). -/
def Policy.toBit : Policy → Bool
  | .clamped => false
  | .toroidal => true

/-! The fields of a command word (R50 to R54, R56). -/

/-- op = cmd[23:20]. -/
def fieldOp (w : CmdWord) : BitVec 4 := w.extractLsb' 20 4
/-- rz = cmd[19:17]. -/
def fieldRz (w : CmdWord) : BitVec 3 := w.extractLsb' 17 3
/-- pz = cmd[16:13], format P. -/
def fieldPz (w : CmdWord) : BitVec 4 := w.extractLsb' 13 4
/-- v = cmd[12], format P. -/
def fieldV (w : CmdWord) : Bool := w.getLsbD 12
/-- y = cmd[11:6], format P. -/
def fieldY (w : CmdWord) : Coord := w.extractLsb' 6 6
/-- x = cmd[5:0], format P. -/
def fieldX (w : CmdWord) : Coord := w.extractLsb' 0 6
/-- idx = cmd[16:8], format B. -/
def fieldIdx (w : CmdWord) : Idx := w.extractLsb' 8 9
/-- data = cmd[7:0], format B. -/
def fieldData (w : CmdWord) : Byte := w.extractLsb' 0 8
/-- cz = cmd[16:5], format C. -/
def fieldCz (w : CmdWord) : BitVec 12 := w.extractLsb' 5 12
/-- policy = cmd[4], format C. -/
def fieldPolicy (w : CmdWord) : Policy := Policy.ofBit (w.getLsbD 4)
/-- n8 = cmd[3:0], format C. -/
def fieldN8 (w : CmdWord) : BitVec 4 := w.extractLsb' 0 4
/-- zz = cmd[16:0], format Z. -/
def fieldZz (w : CmdWord) : BitVec 17 := w.extractLsb' 0 17

/-- A format Z row: the command, if zz is 0 (R54). -/
def decodeZ (i : Instr) (w : CmdWord) : Decoded :=
  if fieldZz w = 0#17 then .legal i else .illegal .zzNotZero

/-- The RDPX row: w[16:12] must be 0, that is pz and v (R51, R57 (d)). -/
def decodeRdpx (w : CmdWord) : Decoded :=
  if fieldPz w ≠ 0#4 then .illegal .pzNotZero
  else if fieldV w then .illegal .rdpxWithV
  else .legal (.rdpx (fieldX w) (fieldY w))

/-- The WRPX row: pz must be 0 (R51). -/
def decodeWrpx (w : CmdWord) : Decoded :=
  if fieldPz w ≠ 0#4 then .illegal .pzNotZero
  else .legal (.wrpx (fieldX w) (fieldY w) (fieldV w))

/-- The LDB row: no reserved field (R52). -/
def decodeLdb (w : CmdWord) : Decoded := .legal (.ldb (fieldIdx w) (fieldData w))

/-- The RDB row: data must be 0x00 (R52, R57 (e)). -/
def decodeRdb (w : CmdWord) : Decoded :=
  if fieldData w ≠ 0#8 then .illegal .rdbWithData else .legal (.rdb (fieldIdx w))

/-- The CFG row: cz must be 0; every n8 decodes (R53, R57). -/
def decodeCfg (w : CmdWord) : Decoded :=
  if fieldCz w ≠ 0#12 then .illegal .czNotZero else .legal (.cfg (fieldPolicy w) (fieldN8 w))

/-- decode(w) of R58: total on the 24-bit words. -/
def decode (w : CmdWord) : Decoded :=
  if fieldRz w ≠ 0#3 then .illegal .rzNotZero
  else if fieldOp w = 0x0#4 then decodeZ .nop w
  else if fieldOp w = 0x1#4 then decodeRdpx w
  else if fieldOp w = 0x2#4 then decodeWrpx w
  else if fieldOp w = 0x3#4 then decodeLdb w
  else if fieldOp w = 0x4#4 then decodeRdb w
  else if fieldOp w = 0x5#4 then decodeCfg w
  else if fieldOp w = 0x6#4 then decodeZ .evolve w
  else if fieldOp w = 0x7#4 then decodeZ .stat w
  else .illegal .reservedOpcode

/-- The command of a decoding, if there is one. -/
def Decoded.toInstr? : Decoded → Option Instr
  | .legal i => some i
  | .illegal _ => none

/-- The decoder on the opcode table's numbering: bit 0 is the least significant bit of `cmd` (R7, R50). A command is
one 24-bit word on the command port, so there is no byte order to lay it out in (R32). A row gives at most 24 bits and
the bits above `nbits` are 0; a number with more bits than a command word is no command word. -/
def decodeTableWord (nbits w : Nat) : Option Instr :=
  if nbits ≤ 24 then (decode (BitVec.ofNat 24 (w % 2 ^ nbits))).toInstr? else none

/-! The encoder (R56) from the formats (R51 to R54). -/

/-- Format P: op, rz = 0, pz = 0, v, y, x (R51). -/
def formatP (op : BitVec 4) (v : Bool) (y x : Coord) : CmdWord :=
  (op ++ 0#3 ++ 0#4 ++ BitVec.ofBool v ++ y ++ x : BitVec (4 + 3 + 4 + 1 + 6 + 6))

/-- Format B: op, rz = 0, idx, data (R52). -/
def formatB (op : BitVec 4) (idx : Idx) (data : Byte) : CmdWord :=
  (op ++ 0#3 ++ idx ++ data : BitVec (4 + 3 + 9 + 8))

/-- Format C: op, rz = 0, cz = 0, policy, n8 (R53). -/
def formatC (op : BitVec 4) (policy : Policy) (n8 : BitVec 4) : CmdWord :=
  (op ++ 0#3 ++ 0#12 ++ BitVec.ofBool policy.toBit ++ n8 : BitVec (4 + 3 + 12 + 1 + 4))

/-- Format Z: op, rz = 0, zz = 0 (R54). -/
def formatZ (op : BitVec 4) : CmdWord :=
  (op ++ 0#3 ++ 0#17 : BitVec (4 + 3 + 17))

/-- The word of a command (R55, R56). -/
def encode : Instr → CmdWord
  | .nop => formatZ 0x0#4
  | .rdpx x y => formatP 0x1#4 false y x
  | .wrpx x y v => formatP 0x2#4 v y x
  | .ldb idx data => formatB 0x3#4 idx data
  | .rdb idx => formatB 0x4#4 idx 0#8
  | .cfg policy n8 => formatC 0x5#4 policy n8
  | .evolve => formatZ 0x6#4
  | .stat => formatZ 0x7#4

/-- One row of the opcode map (R55). -/
structure OpRow where
  mnemonic : String
  mtch : CmdWord
  mask : CmdWord
  deriving DecidableEq, Repr

/-- The row of a command, from R55's table. -/
def opRow : Instr → OpRow
  | .nop => ⟨"NOP", 0x000000, 0xFFFFFF⟩
  | .rdpx _ _ => ⟨"RDPX", 0x100000, 0xFFF000⟩
  | .wrpx _ _ _ => ⟨"WRPX", 0x200000, 0xFFE000⟩
  | .ldb _ _ => ⟨"LDB", 0x300000, 0xFE0000⟩
  | .rdb _ => ⟨"RDB", 0x400000, 0xFE00FF⟩
  | .cfg _ _ => ⟨"CFG", 0x500000, 0xFFFFE0⟩
  | .evolve => ⟨"EVOLVE", 0x600000, 0xFFFFFF⟩
  | .stat => ⟨"STAT", 0x700000, 0xFFFFFF⟩

/-- The opcode map (R55). -/
def opcodeTable : List OpRow :=
  [opRow .nop, opRow (.rdpx 0 0), opRow (.wrpx 0 0 false), opRow (.ldb 0 0), opRow (.rdb 0),
    opRow (.cfg .clamped 0), opRow .evolve, opRow .stat]

/-- "A word w is the command of a row exactly when w & mask == match" (R55). -/
def OpRow.matches (r : OpRow) (w : CmdWord) : Bool := decide (w &&& r.mask = r.mtch)

end Sys2Proof
end

