-- ==== Sys2Proof/Config.lean ====
section
/-! DEFINITION. What an implementation fixes: the parameters of 00_scope.md R5 and R6, and the values the spec leaves
open (93_implementation_defined.md), which have no body, so nothing can be proved of one of them. -/

namespace Sys2Proof

/-- CAP: bytes in one bank (R5). -/
def Config.cap : Nat := 512

/-- NMAX: the largest side (R6). -/
def Config.nmax : Nat := 64

/-- FREE VALUE. `G_reset`: what byte `i` of bank `b` holds after the `resets`-th reset until something writes it
(R25, R153, U1, U13, D13). The first argument makes two resets independent: "the values need not be the same after
two resets" (R25). Log entry 1; safe. -/
opaque Config.gReset (resets : Nat) (b : Bank) (i : Idx) : Byte

/-- OPEN parameter `cycles_per_microstep` (U9, D28): the clock periods one micro-step takes. It is named so that the
spec's open point is not lost; "used by no rule", and by nothing in this model. Log entry 12; safe. -/
opaque Config.cyclesPerMicrostep (microStep : Nat) : Nat

end Sys2Proof
end

