-- ==== Sys2Proof/Machine/State.lean ====
section
/-! DEFINITION. The state of the block (10_state.md R10), the host's side of its ports, the reasons a step can stop, and
the state after reset (R25). -/

namespace Sys2Proof.Machine

/-- The bytes of one bank that something has written since the last reset: (index, byte) pairs with strictly rising
indices below 512. A byte that nothing has written is not listed, and reads as the free value `Config.gReset` (R25,
U1, U13; log entries 1 and 3). -/
abbrev Memory := List Host.Cell

/-- PH, the sequencer phase (R17). It has no binary codes (U8). -/
inductive Phase where
  | idle
  | center
  | neigh
  | write
  | swap
  | faulted
  deriving DecidableEq, Repr

/-- The four fault causes (R131). -/
inductive Cause where
  | illcmd
  | nocfg
  | badn
  | coord
  deriving DecidableEq, Repr

/-- A response: `rsp_err` and `rsp_data` (R24, R59). -/
structure Response where
  err : Bool
  data : RspData
  deriving DecidableEq, Repr

/-- What the host does at its side of the ports (R24, R143). The block reads these in order (log entry 4). -/
inductive HostAction where
  /-- cmd_valid = 1 with this word on `cmd`, held until the block accepts it (R60). -/
  | cmd (w : CmdWord)
  /-- One step in which the host presents no command: cmd_valid = 0, rst = 0. -/
  | quiet
  /-- One step with rst = 1 (R150). -/
  | rst
  deriving DecidableEq, Repr

/-- The stops that are faults of the MODEL. The block's own faults (R131) are not among them: they are next states. -/
inductive Fault where
  /-- The codec was called outside its domain: N8 not in 1..8, or a coordinate not below N (R70, R72, R73, R74: "defined
  when"; U3: "never a value, never a wrapped or clamped address"). Raised by RDPX and WRPX when N8 > 8 and by the
  sequencer's CENTER, NEIGH and WRITE. SAFE: the step stops where the spec defines nothing, and no state a run reaches
  gets there (R26, R105, R139). Log entry 9. -/
  | codecUndefined
  deriving DecidableEq, Repr

/-- The stops that are refusals of the model. -/
inductive Refusal where
  /-- An arm of `exec` without a meaning. SAFE. No arm raises it: every command has its meaning. -/
  | notModelled (mnemonic : String)
  deriving DecidableEq, Repr

end Sys2Proof.Machine

namespace Sys2Proof.Machine

/-- The state: R10's components under the names of their registers, then the model's own three fields. One-bit
registers are Bool, 1 = true (log entry 10). -/
structure State where
  /-- G[0] (R11). -/
  g0 : Memory
  /-- G[1] (R11). -/
  g1 : Memory
  /-- CFG.N8 (R13): 0 = not configured, else N/8. -/
  n8 : BitVec 4
  /-- CFG.POLICY (R13). -/
  policy : Policy
  /-- FRONT (R14): G[FRONT] is the front bank. -/
  front : Bool
  /-- FAULT (R15). -/
  fault : Bool
  /-- CAUSE (R15). -/
  cause : BitVec 3
  /-- PH (R17). -/
  ph : Phase
  /-- CY (R18). -/
  cy : Coord
  /-- CX (R18). -/
  cx : Coord
  /-- K (R19). -/
  k : BitVec 3
  /-- CNT (R19). -/
  cnt : BitVec 4
  /-- ALIVE (R19). -/
  alive : Bool
  /-- The model's own: resets seen so far; it only selects the free bytes of `Config.gReset` (log entry 2). -/
  resets : Nat
  /-- The model's own: what the host will do, first action first (log entry 4). -/
  pending : List HostAction
  /-- The model's own: the responses delivered, oldest first (log entry 5). -/
  responses : List Response
  deriving DecidableEq, Repr

/-- The machine right after reset (R25, R151): every register at its stated value, every bank byte free, nothing
presented by the host and nothing answered yet. -/
def State.reset : State where
  g0 := []
  g1 := []
  n8 := 0#4
  policy := .clamped
  front := false
  fault := false
  cause := 0#3
  ph := .idle
  cy := 0#6
  cx := 0#6
  k := 0#3
  cnt := 0#4
  alive := false
  resets := 0
  pending := []
  responses := []

end Sys2Proof.Machine
end

