-- ==== Sys2Proof/Machine/Flags.lean ====
section
/-! DEFINITION. Values computed from status state: the fault codes (R131), the status word (R16), zero extension to the
response width (R8), and the rule that gives a cell its new value from ALIVE and CNT (R95). The block has no arithmetic
condition codes (R22). -/

namespace Sys2Proof.Machine

/-- The cause codes (R6, R131). -/
def Cause.code : Cause → BitVec 3
  | .illcmd => 1#3
  | .nocfg => 2#3
  | .badn => 3#3
  | .coord => 4#3

/-- `zext_16` (R8): zero extension to the response width. -/
def zext16 {n : Nat} (v : BitVec n) : RspData := v.setWidth 16

/-- STATUS (R16): zero_6, CFG.N8, CFG.POLICY, FRONT, CAUSE, FAULT from the most significant bit down. -/
def statusWord (s : State) : RspData :=
  (0#6 ++ s.n8 ++ BitVec.ofBool s.policy.toBit ++ BitVec.ofBool s.front ++ s.cause ++ BitVec.ofBool s.fault :
    BitVec (6 + 4 + 1 + 1 + 3 + 1))

/-- next_state(alive, n) (R95). -/
def nextState (alive : Bool) (n : Nat) : Bool :=
  (alive && (n == 2 || n == 3)) || (!alive && n == 3)

end Sys2Proof.Machine
end

