-- ==== Sys2Proof/Machine/Ops.lean ====
section
/-! DEFINITION. The named operations over memory and registers: bytes of a bank, responses, TAKING A FAULT (R134) and
beside it the only way out of one, reset (R136, R151). -/

namespace Sys2Proof.Machine

/-! ### One bank's listed bytes -/

/-- The listed byte at an index, if the bank lists one. The list rises, so the search stops at a larger index. -/
def Memory.find : Memory → Nat → Option Byte
  | [], _ => none
  | (a, v) :: m, i => if i = a then some v else if i < a then none else Memory.find m i

/-- The bank with the byte at an index set, in canonical form. -/
def Memory.put : Memory → Nat → Byte → Memory
  | [], i, v => [(i, v)]
  | (a, u) :: m, i, v =>
    if i = a then (i, v) :: m
    else if i < a then (i, v) :: (a, u) :: m
    else (a, u) :: Memory.put m i v

/-- Every listed index is above `lo`, below CAP, and the indices rise strictly. -/
def Memory.risesAbove : Nat → Memory → Bool
  | _, [] => true
  | lo, (a, _) :: m => decide (lo < a) && decide (a < Config.cap) && Memory.risesAbove a m

/-- The canonical form of a bank: strictly rising indices, all below CAP = 512 (log entry 3). -/
def Memory.wf : Memory → Bool
  | [] => true
  | (a, _) :: m => decide (a < Config.cap) && Memory.risesAbove a m

/-! ### Bytes of the banks (R8) -/

/-- What a byte that nothing has written since the last reset reads as: a free value (R25, U1, U13; log entry 1). -/
def unwritten (s : State) (b : Bank) (i : Idx) : Byte := Config.gReset s.resets b i

/-- The listed bytes of bank b. -/
def bank (s : State) (b : Bank) : Memory := if b then s.g1 else s.g0

/-- `MemRead((b, i), 1)` (R8). It changes nothing (R37). -/
def readByte (s : State) (b : Bank) (i : Idx) : Byte :=
  ((bank s b).find i.toNat).getD (unwritten s b i)

/-- `MemWrite((b, i), 1, v)` (R8). -/
def writeByte (s : State) (b : Bank) (i : Idx) (v : Byte) : State :=
  if b then { s with g1 := s.g1.put i.toNat v } else { s with g0 := s.g0.put i.toNat v }

/-! ### Responses (R59) -/

/-- `respond(err, data)` (R8): deliver the one response of the current command. -/
def respond (s : State) (err : Bool) (data : RspData) : State :=
  { s with responses := s.responses ++ [⟨err, data⟩] }

/-- respond(0, 0x0000), the response of a command that returns no value (R59). -/
def respondDone (s : State) : State := respond s false 0#16

/-! ### Taking a fault, the fault state, reset -/

/-- Fault entry, `raise Fault(c)` (R134): FAULT and CAUSE are written, PH becomes FAULTED, the response is (1, c);
nothing else changes, and control goes nowhere. -/
def raiseFault (s : State) (c : Cause) : State :=
  respond { s with fault := true, cause := c.code, ph := .faulted } true (zext16 c.code)

/-- In the fault state a command other than STAT is refused: response (1, CAUSE), no state change (R59, R135);
otherwise the command is executed. -/
def serve (s : State) (body : State → Host.Outcome State Fault Refusal) : Host.Outcome State Fault Refusal :=
  if s.fault then .next (respond s true (zext16 s.cause)) else body s

/-- The effect of an edge with rst = 1 (R150 to R153). Every register takes its value of R25; a command in progress
gets no response; the banks' bytes become free again, independently of earlier resets ("after reset each byte is a
free input", R153). There is no return from a fault; this is the only way out of one (R136). The responses the host
already has, and what it will still present, are the host's (log entry 7). -/
def takeReset (s : State) : State :=
  { State.reset with resets := s.resets + 1, pending := s.pending, responses := s.responses }

/-! ### The sequencer's standing -/

/-- PH ∈ {CENTER, NEIGH, WRITE, SWAP}: an EVOLVE is in progress (R17, R24). -/
def Phase.busy : Phase → Bool
  | .center | .neigh | .write | .swap => true
  | .idle | .faulted => false

end Sys2Proof.Machine
end

