-- ==== Sys2Proof/Machine/Operands.lean ====
section
/-! DEFINITION. The two addressing modes (R82): a byte index, which needs no computation, and a cell (x, y) through the
Grid Codec (40_codec.md R70 to R74, 20_memory.md R42). The codec is pure: it works on any bytes `rd`, and is then
applied to a bank of the state. Its arithmetic is exact, as R80 says. -/

namespace Sys2Proof.Machine

/-- N = 8 × N8 (R13). -/
def sideOf (n8 : BitVec 4) : Nat := 8 * n8.toNat

/-- ROWB = N/8 (R5). -/
def rowBytes (n : Nat) : Nat := n / 8

/-- GRIDB = N²/8 (R5). -/
def gridBytes (n : Nat) : Nat := n * n / 8

/-- `in_range(x, y, N)` (R72). -/
def inRange (x y n : Nat) : Bool := decide (x < n) && decide (y < n)

/-- byte_index(x, y, N) = y × (N div 8) + (x div 8), a 9-bit value (R70). -/
def byteIndex (x y n : Nat) : Idx := BitVec.ofNat 9 (y * (n / 8) + x / 8)

/-- bit_index(x) = x mod 8, counted from the most significant bit (R71). -/
def bitIndex (x : Nat) : Nat := x % 8

/-- The bit position 7 - bit_index(x), counted from the least significant bit (R9, R71). -/
def bitPos (x : Nat) : Nat := 7 - bitIndex x

/-- mask(x) = 0x80 >> bit_index(x) (R71). -/
def cellMask (x : Nat) : Byte := 0x80#8 >>> bitIndex x

/-- The codec's domain: N = 8..64 in steps of 8 and (x, y) in range (R70, R72). -/
def codecDefined (n8 : BitVec 4) (x y : Nat) : Bool :=
  decide (1 ≤ n8.toNat) && decide (n8.toNat ≤ 8) && inRange x y (sideOf n8)

/-- cell_get on bytes `rd`: (byte >> (7 - bit_index(x))) & 1 (R73). -/
def cellGet (rd : Idx → Byte) (x y n : Nat) : Bool :=
  ((rd (byteIndex x y n)) >>> bitPos x).getLsbD 0

/-- The byte that cell_set stores: `old | mask(x)` or `old & (~mask(x) & 0xFF)` (R74). -/
def cellByte (old : Byte) (x : Nat) (v : Bool) : Byte :=
  if v then old ||| cellMask x else old &&& ~~~(cellMask x)

/-- cell_get on bank b of the state (R73). -/
def getCell (s : State) (b : Bank) (x y n : Nat) : Bool := cellGet (readByte s b) x y n

/-- cell_set on bank b of the state (R74): read one byte, write the same byte. -/
def setCell (s : State) (b : Bank) (x y n : Nat) (v : Bool) : State :=
  writeByte s b (byteIndex x y n) (cellByte (readByte s b (byteIndex x y n)) x v)

/-- The column of the cell in bit position 7 - b of byte idx: x = 8×(idx mod ROWB) + b (R42). -/
def cellColumn (idx b n : Nat) : Nat := 8 * (idx % rowBytes n) + b

/-- The row of the cells of byte idx: y = idx div ROWB (R42). -/
def cellRow (idx n : Nat) : Nat := idx / rowBytes n

end Sys2Proof.Machine
end

