-- ==== Sys2Proof/Machine/CellUpdate.lean ====
section
/-! DEFINITION. The cell-update engine (41_cell_update.md): the per-cell computation as pure functions (R90 to R98), the
EVOLVE command, its state machine of micro-steps (R100), and its big step (R99). -/

namespace Sys2Proof.Machine

/-! ### The per-cell computation -/

/-- The position in the 3×3 window of neighbour K: j = K when K < 4, else K + 1 (R90). -/
def windowPos (k : Nat) : Nat := if k < 4 then k else k + 1

/-- dx(K) = (j mod 3) - 1 (R90). -/
def offsetX (k : Nat) : Int := (windowPos k % 3 : Nat) - 1

/-- dy(K) = (j div 3) - 1 (R90). -/
def offsetY (k : Nat) : Int := (windowPos k / 3 : Nat) - 1

/-- One axis of `resolve` against that axis's own bound (R91, R109): the exact sum v, -1..bound. Clamped: out of range
is absent. Toroidal: -1 becomes bound - 1, bound becomes 0, else unchanged (D32). -/
def resolveAxis (v : Int) (bound : Nat) (policy : Policy) : Option Nat :=
  match policy with
  | .clamped => if v < 0 ∨ (bound : Int) ≤ v then none else some v.toNat
  | .toroidal => if v = -1 then some (bound - 1) else if v = bound then some 0 else some v.toNat

/-- resolve(x, y, dx, dy, N, policy) with `none` for ABSENT (R91): x against the width, y against the height, both N. -/
def resolve (x y : Nat) (dx dy : Int) (n : Nat) (policy : Policy) : Option (Nat × Nat) :=
  match resolveAxis ((x : Int) + dx) n policy, resolveAxis ((y : Int) + dy) n policy with
  | some wx, some wy => some (wx, wy)
  | _, _ => none

/-- Neighbour K of (x, y): a coordinate pair, or ABSENT (R90, R91). -/
def neighbour (x y k n : Nat) (policy : Policy) : Option (Nat × Nat) :=
  resolve x y (offsetX k) (offsetY k) n policy

/-- What neighbour K adds to the count: its cell, or 0 when it is ABSENT, in which case no byte is read (R92, R94). -/
def neighbourValue (rd : Idx → Byte) (x y k n : Nat) (policy : Policy) : Nat :=
  match neighbour x y k n policy with
  | some (nx, ny) => (cellGet rd nx ny n).toNat
  | none => 0

/-- The live neighbours among offsets 0..k-1 (R19, R94). -/
def countUpTo (rd : Idx → Byte) (x y n : Nat) (policy : Policy) : Nat → Nat
  | 0 => 0
  | k + 1 => countUpTo rd x y n policy k + neighbourValue rd x y k n policy

/-- count(b, x, y, N, policy): all eight (R94). -/
def countLive (rd : Idx → Byte) (x y n : Nat) (policy : Policy) : Nat := countUpTo rd x y n policy 8

/-- next_cell(b, x, y, N, policy): the rule on the complete count only (R96, R97). -/
def nextCell (rd : Idx → Byte) (x y n : Nat) (policy : Policy) : Bool :=
  nextState (cellGet rd x y n) (countLive rd x y n policy)

/-- Byte idx of next_grid(g, N, policy): bit 7 - b is the next value of cell (8×(idx mod ROWB) + b, idx div ROWB) (R98). -/
def nextGridByte (rd : Idx → Byte) (n : Nat) (policy : Policy) (idx : Nat) : Byte :=
  BitVec.ofBoolListBE ((List.range 8).map fun b => nextCell rd (cellColumn idx b n) (cellRow idx n) n policy)

/-! ### The state machine of micro-steps (R100) -/

/-- A micro-step that calls the codec at the cell (CX, CY): outside the codec's domain it stops, inside it acts. -/
def atCell (s : State) (body : State → State) : Host.Outcome State Fault Refusal :=
  if codecDefined s.n8 s.cx.toNat s.cy.toNat then .next (body s) else .fault .codecUndefined

/-- CENTER: ALIVE <- cell_get(FRONT, CX, CY, N); CNT <- 0; K <- 0; to NEIGH. -/
def seqCenter (s : State) : State :=
  { s with
    alive := getCell s s.front s.cx.toNat s.cy.toNat (sideOf s.n8)
    cnt := 0#4
    k := 0#3
    ph := .neigh }

/-- NEIGH: examine neighbour K; if it is not ABSENT, CNT <- CNT + its cell. K < 7: K <- K + 1, stay; K = 7: to WRITE. -/
def seqNeigh (s : State) : State :=
  let v := neighbourValue (readByte s s.front) s.cx.toNat s.cy.toNat s.k.toNat (sideOf s.n8) s.policy
  if s.k.toNat < 7 then { s with cnt := s.cnt + BitVec.ofNat 4 v, k := s.k + 1#3 }
  else { s with cnt := s.cnt + BitVec.ofNat 4 v, ph := .write }

/-- WRITE, the move to the next cell in row-major order (R101): to CENTER, or to SWAP after the cell (N-1, N-1). -/
def seqAdvance (s : State) : State :=
  if s.cx.toNat + 1 < sideOf s.n8 then { s with cx := s.cx + 1#6, ph := .center }
  else if s.cy.toNat + 1 < sideOf s.n8 then { s with cx := 0#6, cy := s.cy + 1#6, ph := .center }
  else { s with ph := .swap }

/-- WRITE: cell_set(1-FRONT, CX, CY, N, next_state(ALIVE, CNT)), live or dead (R102), and the move. -/
def seqWrite (s : State) : State :=
  seqAdvance
    (setCell s (!s.front) s.cx.toNat s.cy.toNat (sideOf s.n8) (nextState s.alive s.cnt.toNat))

/-- SWAP: FRONT <- 1 - FRONT; respond(0, 0x0000); to IDLE. -/
def seqSwap (s : State) : State :=
  respondDone { s with front := !s.front, ph := .idle }

/-- One micro-step of an EVOLVE in progress (R100). In IDLE and FAULTED the sequencer does nothing. -/
def seqStep (s : State) : Host.Outcome State Fault Refusal :=
  match s.ph with
  | .center => atCell s seqCenter
  | .neigh => atCell s seqNeigh
  | .write => atCell s seqWrite
  | .swap => .next (seqSwap s)
  | .idle => .next s
  | .faulted => .next s

/-! ### EVOLVE -/

/-- The accepting transition of R100: CY <- 0; CX <- 0; to CENTER. -/
def startEvolve (s : State) : State := { s with cy := 0#6, cx := 0#6, ph := .center }

/-- EVOLVE: NOCFG when the block is not configured (R99), else the accepting transition of R100. The 10×N² + 1
micro-steps that follow are `seqStep`, one a step (log entry 6); the response comes with SWAP. -/
def execEvolve (s : State) : Host.Outcome State Fault Refusal :=
  serve s fun s =>
    if s.n8 = 0#4 then .next (raiseFault s .nocfg)
    else .next (startEvolve s)

/-! ### EVOLVE as a big step (R99) -/

/-- The body of R99's inner loop: write the next value of cell (x, y) into bank `back`, computed from bank `front`. -/
def evolveCell (s : State) (front back : Bank) (n : Nat) (policy : Policy) (x y : Nat) : State :=
  setCell s back x y n (nextCell (readByte s front) x y n policy)

/-- R99's loops: `for y in 0 .. N-1: for x in 0 .. N-1` (R101). -/
def evolveGrid (s : State) (front back : Bank) (n : Nat) (policy : Policy) : State :=
  (List.range n).foldl (fun t y => (List.range n).foldl (fun u x => evolveCell u front back n policy x y) t) s

/-- EVOLVE of a configured block as one transition (R99). The sequencer registers, which no command reads, are left
alone; R104 compares everything else with the micro-steps. -/
def evolveBig (s : State) : State :=
  respondDone { evolveGrid s s.front (!s.front) (sideOf s.n8) s.policy with front := !s.front }

end Sys2Proof.Machine
end

