-- ==== Sys2Proof/Machine/Codec.lean ====
section
/-! DEFINITION. The memory commands RDPX, WRPX, LDB, RDB (40_codec.md R76 to R79). In every one a set FAULT refuses the
command first (R60, R135). -/

namespace Sys2Proof.Machine

/-- The checks RDPX and WRPX share, in R132's order: NOCFG, then COORD, both before any access (R76, R77, R133). A side
above 64, which CFG never holds (R13), is outside the codec's domain and stops (log entry 9). -/
def withCell (x y : Coord) (s : State) (body : State → State) : Host.Outcome State Fault Refusal :=
  if s.n8 = 0#4 then .next (raiseFault s .nocfg)
  else if inRange x.toNat y.toNat (sideOf s.n8) = false then .next (raiseFault s .coord)
  else if codecDefined s.n8 x.toNat y.toNat then .next (body s)
  else .fault .codecUndefined

/-- RDPX x, y: respond the cell of the front bank (R76). -/
def execRdpx (x y : Coord) (s : State) : Host.Outcome State Fault Refusal :=
  serve s fun s => withCell x y s fun s =>
    respond s false (zext16 (BitVec.ofBool (getCell s s.front x.toNat y.toNat (sideOf s.n8))))

/-- WRPX x, y, v: cell_set on the front bank (R77). -/
def execWrpx (x y : Coord) (v : Bool) (s : State) : Host.Outcome State Fault Refusal :=
  serve s fun s => withCell x y s fun s =>
    respondDone (setCell s s.front x.toNat y.toNat (sideOf s.n8) v)

/-- LDB idx, data: write the byte of the front bank; no fault, no use of N (R78). -/
def execLdb (idx : Idx) (data : Byte) (s : State) : Host.Outcome State Fault Refusal :=
  serve s fun s => .next (respondDone (writeByte s s.front idx data))

/-- RDB idx: respond the byte of the front bank; no fault, no use of N (R79). -/
def execRdb (idx : Idx) (s : State) : Host.Outcome State Fault Refusal :=
  serve s fun s => .next (respond s false (zext16 (readByte s s.front idx)))

end Sys2Proof.Machine
end

