-- ==== Sys2Proof/Machine/System.lean ====
section
/-! DEFINITION. The system commands NOP, CFG, STAT (42_system.md R120 to R122). -/

namespace Sys2Proof.Machine

/-- NOP: respond (0, 0x0000) and nothing else (R120); refused in the fault state (R135). -/
def execNop (s : State) : Host.Outcome State Fault Refusal :=
  serve s fun s => .next (respondDone s)

/-- CFG.N8 <- n8; CFG.POLICY <- policy (R121). -/
def setConfig (s : State) (policy : Policy) (n8 : BitVec 4) : State := { s with n8 := n8, policy := policy }

/-- CFG n8, policy: BADN when n8 is 0 or above 8, before any write; else both fields are written together (R121). -/
def execCfg (policy : Policy) (n8 : BitVec 4) (s : State) : Host.Outcome State Fault Refusal :=
  serve s fun s =>
    if n8 = 0#4 ∨ 8 < n8.toNat then .next (raiseFault s .badn)
    else .next (respondDone (setConfig s policy n8))

/-- STAT: respond (0, status word); the only command served in the fault state too (R122, R135). -/
def execStat (s : State) : Host.Outcome State Fault Refusal :=
  .next (respond s false (statusWord s))

end Sys2Proof.Machine
end

