-- ==== Sys2Proof/Machine/Dispatch.lean ====
section
/-! DEFINITION. The dispatch: "execute c by its rule" (30_encoding.md R60), one arm per command. -/

namespace Sys2Proof.Machine

def exec (i : Instr) (s : State) : Host.Outcome State Fault Refusal :=
  match i with
  | .nop => Sys2Proof.Machine.execNop s
  | .rdpx x y => Sys2Proof.Machine.execRdpx x y s
  | .wrpx x y v => Sys2Proof.Machine.execWrpx x y v s
  | .ldb idx data => Sys2Proof.Machine.execLdb idx data s
  | .rdb idx => Sys2Proof.Machine.execRdb idx s
  | .cfg policy n8 => Sys2Proof.Machine.execCfg policy n8 s
  | .evolve => Sys2Proof.Machine.execEvolve s
  | .stat => Sys2Proof.Machine.execStat s

end Sys2Proof.Machine
end

