-- ==== Sys2Proof/Machine/Port.lean ====
section
/-! DEFINITION. The command port: acceptance and the top-level step (30_encoding.md R60), the host's actions (R143), and
the output ports as functions of the state (10_state.md R24). -/

namespace Sys2Proof.Machine

/-- accept(w) of R60: an ILLEGAL word raises ILLCMD, or is refused in the fault state like any other (R57, R135); a
legal one is executed by its rule, which makes the same refusal for every command but STAT. -/
def accept (w : CmdWord) (s : State) : Host.Outcome State Fault Refusal :=
  match decode w with
  | .legal i => exec i s
  | .illegal _ => serve s fun s => .next (raiseFault s .illcmd)

/-- cmd_ready: PH ∈ {IDLE, FAULTED} and no response is owed (R24). A response is delivered in the very step that
completes its command, so none is ever owed between steps (log entry 8). -/
def cmdReady (s : State) : Bool := !s.ph.busy

/-- busy (R24). -/
def busyOut (s : State) : Bool := s.ph.busy

/-- The `fault` port equals FAULT (R24). -/
def faultOut (s : State) : Bool := s.fault

/-- The response port of the step from `before` to `after`: rsp_valid = 1 exactly when it is `some`, and then rsp_err
and rsp_data are its fields; without rsp_valid they carry nothing (R24, U15). -/
def rspOut (before after : State) : Option Response := after.responses[before.responses.length]?

/-- One transition of the block. rst has priority over everything (R150). While an EVOLVE is in progress the
sequencer takes one micro-step (R100) and a presented command waits, neither lost nor executed (R60, R161). In IDLE or
FAULTED a presented command is accepted; without one the block waits with all state kept (R142, R154). -/
def advance (s : State) : Host.Outcome State Fault Refusal :=
  match s.pending with
  | [] => seqStep s
  | .rst :: rest => .next (takeReset { s with pending := rest })
  | .quiet :: rest => seqStep { s with pending := rest }
  | .cmd w :: rest => if cmdReady s then accept w { s with pending := rest } else seqStep s

/-- The state in which the very next step accepts the word `w`: the host presents `w` as its next action. A word is
accepted only in IDLE or FAULTED (R60), so an EVOLVE in progress gives way to IDLE; nothing else changes. -/
def presentNow (s : State) (w : CmdWord) : State :=
  { s with
    pending := .cmd w :: s.pending
    ph := if s.ph.busy then .idle else s.ph }

end Sys2Proof.Machine
end

