-- ==== Sys2Proof/Machine/Step.lean ====
section
/-! DEFINITION. The step function and the placing of an instruction where the next step takes it from. -/

namespace Sys2Proof.Machine

/-- One transition of the block: `advance` (R60, R100, R150). -/
def step (s : State) : Host.Outcome State Fault Refusal := advance s

/-- The command word of the table's number `w` of `nbits` bits, presented as the host's next action. The block has no
program counter and stores no program (R21, R41): the command port is where it takes its next command from. -/
def State.withFetchWord (s : State) (nbits w : Nat) : State :=
  presentNow s (BitVec.ofNat 24 (w % 2 ^ nbits))

end Sys2Proof.Machine
end

