-- ==== Sys2Proof/Machine/Accesses.lean ====
section
/-! DEFINITION. The byte accesses each command and each micro-step makes, in order (20_memory.md R36). -/

namespace Sys2Proof.Machine

/-- One access, one byte wide (R35, R36). -/
inductive Access where
  | read (b : Bank) (i : Idx)
  | write (b : Bank) (i : Idx)
  deriving DecidableEq, Repr

/-- RDPX and WRPX access a byte only when none of their faults is raised (R76, R77, R133). -/
def cellServed (s : State) (x y : Coord) : Bool := !s.fault && codecDefined s.n8 x.toNat y.toNat

/-- The accesses of a command when it is accepted (R36). EVOLVE's are made by its micro-steps, `seqAccesses`. A
command refused in the fault state makes none (R135). -/
def instrAccesses (i : Instr) (s : State) : List Access :=
  match i with
  | .rdpx x y =>
    if cellServed s x y then [.read s.front (byteIndex x.toNat y.toNat (sideOf s.n8))] else []
  | .wrpx x y _ =>
    if cellServed s x y then
      [.read s.front (byteIndex x.toNat y.toNat (sideOf s.n8)),
        .write s.front (byteIndex x.toNat y.toNat (sideOf s.n8))]
    else []
  | .ldb idx _ => if s.fault then [] else [.write s.front idx]
  | .rdb idx => if s.fault then [] else [.read s.front idx]
  | .nop => []
  | .cfg _ _ => []
  | .evolve => []
  | .stat => []

/-- The read for neighbour K: none when it is ABSENT (R36, R92). -/
def neighbourReads (f : Bank) (x y k n : Nat) (policy : Policy) : List Access :=
  match neighbour x y k n policy with
  | some (nx, ny) => [.read f (byteIndex nx ny n)]
  | none => []

/-- The back-bank read and write of one cell's new value (R36, R74, R102). -/
def cellWrites (b : Bank) (x y n : Nat) : List Access :=
  [.read b (byteIndex x y n), .write b (byteIndex x y n)]

/-- The accesses of one micro-step (R36, R100). -/
def seqAccesses (s : State) : List Access :=
  match s.ph with
  | .center => [.read s.front (byteIndex s.cx.toNat s.cy.toNat (sideOf s.n8))]
  | .neigh => neighbourReads s.front s.cx.toNat s.cy.toNat s.k.toNat (sideOf s.n8) s.policy
  | .write => cellWrites (!s.front) s.cx.toNat s.cy.toNat (sideOf s.n8)
  | .swap => []
  | .idle => []
  | .faulted => []

/-- The accesses for one cell of an EVOLVE: the cell, its present neighbours in the order of K, the write (R36). -/
def evolveCellAccesses (f : Bank) (x y n : Nat) (policy : Policy) : List Access :=
  .read f (byteIndex x y n) ::
    ((List.range 8).flatMap fun k => neighbourReads f x y k n policy) ++ cellWrites (!f) x y n

/-- All accesses of an EVOLVE, cell by cell in row-major order (R36, R101). -/
def evolveAccesses (f : Bank) (n : Nat) (policy : Policy) : List Access :=
  (List.range n).flatMap fun y => (List.range n).flatMap fun x => evolveCellAccesses f x y n policy

/-- The accesses of `fuel` micro-steps from a state, in order. -/
def traceAccesses : Nat → State → List Access
  | 0, _ => []
  | fuel + 1, s =>
    seqAccesses s ++
      match seqStep s with
      | .next t => traceAccesses fuel t
      | .fault _ => []
      | .refused _ => []

end Sys2Proof.Machine
end

