-- ==== Sys2Proof/Machine/Asm.lean ====
section
/-! DEFINITION. The spec's assembler text (30_encoding.md R61) and pseudo-instructions (R62): a line of characters to an
`AsmLine`, and an `AsmLine` to the commands and words it stands for. -/

namespace Sys2Proof.Machine

/-! ### From a line to commands -/

/-- LDB 0, b0 ; LDB 1, b1 ; ... in ascending index from `i` (R62). -/
def seedFrom (i : Nat) : List Nat → List Instr
  | [] => []
  | b :: bs => .ldb (BitVec.ofNat 9 i) (BitVec.ofNat 8 b) :: seedFrom (i + 1) bs

/-- The commands of a well-formed line: one for a command, the exact expansion for a pseudo-instruction (R61, R62). -/
def expandLine : AsmLine → List Instr
  | .nop => [.nop]
  | .rdpx x y => [.rdpx (BitVec.ofNat 6 x) (BitVec.ofNat 6 y)]
  | .wrpx x y v => [.wrpx (BitVec.ofNat 6 x) (BitVec.ofNat 6 y) (decide (v = 1))]
  | .ldb idx data => [.ldb (BitVec.ofNat 9 idx) (BitVec.ofNat 8 data)]
  | .rdb idx => [.rdb (BitVec.ofNat 9 idx)]
  | .cfg n policy => [.cfg policy (BitVec.ofNat 4 (n / 8))]
  | .evolve => [.evolve]
  | .stat => [.stat]
  | .setpx x y => [.wrpx (BitVec.ofNat 6 x) (BitVec.ofNat 6 y) true]
  | .clrpx x y => [.wrpx (BitVec.ofNat 6 x) (BitVec.ofNat 6 y) false]
  | .fill b => seedFrom 0 (List.replicate 512 b)
  | .clrg => seedFrom 0 (List.replicate 512 0)
  | .seed bytes => seedFrom 0 bytes
  | .dump n => (List.range n).map fun i => .rdb (BitVec.ofNat 9 i)

/-- The commands of a line; an operand outside its range is an assembler error, `none` (R61). -/
def assemble (l : AsmLine) : Option (List Instr) :=
  if l.wellFormed then some (expandLine l) else none

/-- The words of a line (R56, R61, R62). -/
def assembleWords (l : AsmLine) : Option (List CmdWord) := (assemble l).map fun is => is.map encode

/-! ### From text to a line (what R61 leaves open of the text's form is log entry 17) -/

/-- The part of a line before a comment: `;` starts one (R61). -/
def stripComment : List Char → List Char
  | [] => []
  | c :: cs => if c = ';' then [] else c :: stripComment cs

/-- White space between the parts of a line. -/
def isBlank (c : Char) : Bool := decide (c = ' ') || decide (c = '\t') || decide (c = '\r')

/-- Drop white space at the front. -/
def trimLeft : List Char → List Char
  | [] => []
  | c :: cs => if isBlank c then trimLeft cs else c :: cs

/-- Drop white space at both ends. -/
def trim (cs : List Char) : List Char := (trimLeft (trimLeft cs).reverse).reverse

/-- The first word of a line and what follows it. -/
def splitWord : List Char → List Char × List Char
  | [] => ([], [])
  | c :: cs => if isBlank c then ([], cs) else (c :: (splitWord cs).1, (splitWord cs).2)

/-- The operands between commas, each trimmed; no operands in an empty text. -/
def splitCommas : List Char → List (List Char)
  | [] => [[]]
  | c :: cs =>
    if c = ',' then [] :: splitCommas cs
    else
      match splitCommas cs with
      | [] => [[c]]
      | f :: fs => (c :: f) :: fs

/-- The operand texts of what follows the mnemonic. -/
def operands (cs : List Char) : List (List Char) :=
  if trim cs = [] then [] else (splitCommas cs).map trim

/-- A decimal digit. -/
def decDigit (c : Char) : Option Nat :=
  if '0'.toNat ≤ c.toNat ∧ c.toNat ≤ '9'.toNat then some (c.toNat - '0'.toNat) else none

/-- A hexadecimal digit, in either case. -/
def hexDigit (c : Char) : Option Nat :=
  if 'a'.toNat ≤ c.toNat ∧ c.toNat ≤ 'f'.toNat then some (c.toNat - 'a'.toNat + 10)
  else if 'A'.toNat ≤ c.toNat ∧ c.toNat ≤ 'F'.toNat then some (c.toNat - 'A'.toNat + 10)
  else decDigit c

/-- Digits in a base, most significant first, onto the value so far. -/
def digits (base : Nat) (digit : Char → Option Nat) : Nat → List Char → Option Nat
  | acc, [] => some acc
  | acc, c :: cs =>
    match digit c with
    | some d => digits base digit (base * acc + d) cs
    | none => none

/-- A number: decimal, or hexadecimal with the prefix 0x (R7, R61). -/
def number : List Char → Option Nat
  | [] => none
  | '0' :: 'x' :: c :: cs => digits 16 hexDigit 0 (c :: cs)
  | c :: cs => digits 10 decDigit 0 (c :: cs)

/-- Every operand as a number, or none. -/
def numbers : List (List Char) → Option (List Nat)
  | [] => some []
  | t :: ts =>
    match number t, numbers ts with
    | some n, some ns => some (n :: ns)
    | _, _ => none

/-- `CLAMPED` (0) or `TOROIDAL` (1) (R61). -/
def policyWord (cs : List Char) : Option Policy :=
  if cs = ['C', 'L', 'A', 'M', 'P', 'E', 'D'] then some .clamped
  else if cs = ['T', 'O', 'R', 'O', 'I', 'D', 'A', 'L'] then some .toroidal
  else none

/-- The line with this mnemonic and these numbers (R61, R62); CFG is apart, its second operand is a word. -/
def lineOf (mnemonic : List Char) (ns : List Nat) : Option AsmLine :=
  if mnemonic = ['N', 'O', 'P'] then (match ns with | [] => some .nop | _ => none)
  else if mnemonic = ['R', 'D', 'P', 'X'] then (match ns with | [x, y] => some (.rdpx x y) | _ => none)
  else if mnemonic = ['W', 'R', 'P', 'X'] then (match ns with | [x, y, v] => some (.wrpx x y v) | _ => none)
  else if mnemonic = ['L', 'D', 'B'] then (match ns with | [i, d] => some (.ldb i d) | _ => none)
  else if mnemonic = ['R', 'D', 'B'] then (match ns with | [i] => some (.rdb i) | _ => none)
  else if mnemonic = ['E', 'V', 'O', 'L', 'V', 'E'] then (match ns with | [] => some .evolve | _ => none)
  else if mnemonic = ['S', 'T', 'A', 'T'] then (match ns with | [] => some .stat | _ => none)
  else if mnemonic = ['S', 'E', 'T', 'P', 'X'] then (match ns with | [x, y] => some (.setpx x y) | _ => none)
  else if mnemonic = ['C', 'L', 'R', 'P', 'X'] then (match ns with | [x, y] => some (.clrpx x y) | _ => none)
  else if mnemonic = ['F', 'I', 'L', 'L'] then (match ns with | [b] => some (.fill b) | _ => none)
  else if mnemonic = ['C', 'L', 'R', 'G'] then (match ns with | [] => some .clrg | _ => none)
  else if mnemonic = ['S', 'E', 'E', 'D'] then some (.seed ns)
  else if mnemonic = ['D', 'U', 'M', 'P'] then (match ns with | [n] => some (.dump n) | _ => none)
  else none

/-- The CFG line: a side and a policy word (R61). -/
def cfgLine (ops : List (List Char)) : Option AsmLine :=
  match ops with
  | [n, p] =>
    match number n, policyWord p with
    | some n, some p => some (.cfg n p)
    | _, _ => none
  | _ => none

/-- One text line: `some none` when only white space or a comment stands on it, `none` when it is no line of R61. -/
def parseLine (cs : List Char) : Option (Option AsmLine) :=
  let t := trim (stripComment cs)
  if t = [] then some none
  else
    let (m, rest) := splitWord t
    if m = ['C', 'F', 'G'] then (cfgLine (operands rest)).map some
    else
      match numbers (operands rest) with
      | some ns => (lineOf m ns).map some
      | none => none

/-- The commands of a text of lines, one line per command or pseudo-instruction (R61). -/
def assembleText : List (List Char) → Option (List Instr)
  | [] => some []
  | l :: ls =>
    match parseLine l, assembleText ls with
    | some none, some is => some is
    | some (some a), some is => (assemble a).map fun js => js ++ is
    | _, _ => none

end Sys2Proof.Machine
end

