-- ==== Sys2Proof/Machine/Run.lean ====
section
/-! DEFINITION. The command level: "a run of the block is a function from the reset state and a finite list of command
words to a list of responses of the same length and a final state" (30_encoding.md R60, 70_reset_and_hazards.md R165). -/

namespace Sys2Proof.Machine

/-- The micro-steps of a whole EVOLVE after the accepting transition: 10×N² + 1 (R100). -/
def microSteps (n : Nat) : Nat := 10 * (n * n) + 1

/-- Run the sequencer until PH is IDLE or FAULTED, at most `fuel` micro-steps. -/
def settle : Nat → State → Host.Outcome State Fault Refusal
  | 0, s => .next s
  | fuel + 1, s =>
    if s.ph.busy then
      match seqStep s with
      | .next t => settle fuel t
      | .fault f => .fault f
      | .refused r => .refused r
    else .next s

/-- One whole command: wait until the block can accept it (R60, R161), accept it, and run an EVOLVE it starts to its
end. microSteps NMAX micro-steps are enough for every legal side. -/
def runCommand (w : CmdWord) (s : State) : Host.Outcome State Fault Refusal :=
  match settle (microSteps Config.nmax) s with
  | .next t =>
    match accept w t with
    | .next u => settle (microSteps Config.nmax) u
    | .fault f => .fault f
    | .refused r => .refused r
  | .fault f => .fault f
  | .refused r => .refused r

/-- A list of commands, one after the other (R39, R60, R165). -/
def runCommands : List CmdWord → State → Host.Outcome State Fault Refusal
  | [], s => .next s
  | w :: ws, s =>
    match runCommand w s with
    | .next t => runCommands ws t
    | .fault f => .fault f
    | .refused r => .refused r

end Sys2Proof.Machine
end

