-- ==== Sys2Proof/Safety.lean ====
section
/-! DEFINITION. What the spec says of every state a run reaches (10_state.md R26), what a run that has gone wrong is
(70_reset_and_hazards.md R165), and what the sequencer's scratch registers mean while an EVOLVE runs (R19, R104 (b)). -/

namespace Sys2Proof.Machine

/-- N of the state's configuration. -/
abbrev State.side (s : State) : Nat := sideOf s.n8

/-- R26 (a): CFG.N8 ≤ 8. -/
abbrev InvConfig (s : State) : Prop := s.n8.toNat ≤ 8

/-- R26 (b), (c): CAUSE = 0 ⇔ FAULT = 0, CAUSE ≤ 4, PH = FAULTED ⇔ FAULT = 1. -/
abbrev InvFault (s : State) : Prop :=
  (s.cause = 0#3 ↔ s.fault = false) ∧ s.cause.toNat ≤ 4 ∧ (s.ph = .faulted ↔ s.fault = true)

/-- R26 (e): an EVOLVE in progress implies CFG.N8 ≠ 0 and FAULT = 0. -/
abbrev InvBusy (s : State) : Prop := s.ph.busy = true → s.n8 ≠ 0#4 ∧ s.fault = false

/-- R26 (f): in CENTER, NEIGH and WRITE the cell is in the grid. -/
abbrev InvCell (s : State) : Prop :=
  (s.ph = .center ∨ s.ph = .neigh ∨ s.ph = .write) → s.cx.toNat < s.side ∧ s.cy.toNat < s.side

/-- R26 (g): CNT ≤ K ≤ 7 in NEIGH and CNT ≤ 8 in WRITE. -/
abbrev InvCount (s : State) : Prop :=
  (s.ph = .neigh → s.cnt.toNat ≤ s.k.toNat ∧ s.k.toNat ≤ 7) ∧ (s.ph = .write → s.cnt.toNat ≤ 8)

/-- Both banks are in canonical form (the model's own; log entry 3). -/
abbrev InvBanks (s : State) : Prop := s.g0.wf = true ∧ s.g1.wf = true

/-- The invariants of R26, and the banks' canonical form. -/
abbrev Inv (s : State) : Prop :=
  InvConfig s ∧ InvFault s ∧ InvBusy s ∧ InvCell s ∧ InvCount s ∧ InvBanks s

/-- What the scratch registers hold during a scan (R19, R104 (b)): ALIVE is the current cell of the front bank; CNT is
the count over the offsets before K in NEIGH, and the complete count in WRITE (R97). -/
abbrev InvScan (s : State) : Prop :=
  (s.ph = .neigh →
    s.alive = getCell s s.front s.cx.toNat s.cy.toNat s.side ∧
    s.cnt.toNat = countUpTo (readByte s s.front) s.cx.toNat s.cy.toNat s.side s.policy s.k.toNat) ∧
  (s.ph = .write →
    s.alive = getCell s s.front s.cx.toNat s.cy.toNat s.side ∧
    s.cnt.toNat = countLive (readByte s s.front) s.cx.toNat s.cy.toNat s.side s.policy)

/-- A configured block that can take a command: FAULT = 0, PH = IDLE, N8 in 1..8 (R60, R156). -/
abbrev Configured (s : State) : Prop :=
  s.fault = false ∧ s.ph = .idle ∧ 1 ≤ s.n8.toNat ∧ s.n8.toNat ≤ 8

/-- "A run that ends in FAULTED has gone wrong" (R165). -/
def State.goneWrong (s : State) : Bool := decide (s.ph = .faulted)

/-- The host presents nothing but command words: it never asserts rst and never pauses (R60, R165). -/
def onlyCommands : List HostAction → Bool
  | [] => true
  | .cmd _ :: rest => onlyCommands rest
  | .quiet :: _ => false
  | .rst :: _ => false

/-- Bank b holds the same grid bytes 0..GRIDB-1 in both states ("two grids are equal exactly when their bytes
0..GRIDB-1 are equal", R12). -/
def SameGrid (s t : State) (b c : Bank) (n : Nat) : Prop :=
  ∀ i : Idx, i.toNat < gridBytes n → readByte s b i = readByte t c i

/-- The fault a command word raises in a state that is not in the fault state, by the conditions of R131 in the order of
R132: decode first, then configuration, then operands. -/
def faultOf (w : CmdWord) (s : State) : Option Cause :=
  match decode w with
  | .illegal _ => some .illcmd
  | .legal (.rdpx x y) =>
    if s.n8 = 0#4 then some .nocfg else if s.side ≤ x.toNat ∨ s.side ≤ y.toNat then some .coord else none
  | .legal (.wrpx x y _) =>
    if s.n8 = 0#4 then some .nocfg else if s.side ≤ x.toNat ∨ s.side ≤ y.toNat then some .coord else none
  | .legal .evolve => if s.n8 = 0#4 then some .nocfg else none
  | .legal (.cfg _ n8) => if n8.toNat = 0 ∨ 8 < n8.toNat then some .badn else none
  | .legal .nop => none
  | .legal (.ldb _ _) => none
  | .legal (.rdb _) => none
  | .legal .stat => none

end Sys2Proof.Machine
end

