-- ==== Sys2Proof/Certificates/Slice0/Obligations.lean ====
section
/-! DEFINITION. The statements for the provers, by the spec's numbered rules: encoding (R50 to R62), the commands (R76 to
R79, R99, R120 to R122) with their faults and frames (R130 to R137), the step (R60, R100, R150 to R161), the codec (R31,
R42, R70 to R82), the engine (R90 to R109) and the invariants (R26). -/

open Sys2Proof Sys2Proof.Machine

/-! ## Encoding -/

/-- Words written out bit by bit from the formats of R51 to R54, one per row and one per illegal pattern of R57, decode
to what they stand for (30_encoding.md section 7; V1 to V24). -/
def Obligations.KnownWordsDecode : Prop :=
  decode 0b0000_000_00000000000000000#24 = .legal .nop ∧
  decode 0b0001_000_0000_0_000101_000011#24 = .legal (.rdpx 3 5) ∧
  decode 0b0010_000_0000_1_000000_000111#24 = .legal (.wrpx 7 0 true) ∧
  decode 0b0010_000_0000_0_001011_001010#24 = .legal (.wrpx 10 11 false) ∧
  decode 0b0011_000_111111111_10100101#24 = .legal (.ldb 511 0xA5) ∧
  decode 0b0100_000_000000010_00000000#24 = .legal (.rdb 2) ∧
  decode 0b0101_000_000000000000_1_1000#24 = .legal (.cfg .toroidal 8) ∧
  decode 0b0110_000_00000000000000000#24 = .legal .evolve ∧
  decode 0b0111_000_00000000000000000#24 = .legal .stat ∧
  decode 0x800000#24 = .illegal .reservedOpcode ∧
  decode 0x020000#24 = .illegal .rzNotZero ∧
  decode 0x110000#24 = .illegal .pzNotZero ∧
  decode 0x101000#24 = .illegal .rdpxWithV ∧
  decode 0x400201#24 = .illegal .rdbWithData ∧
  decode 0x500020#24 = .illegal .czNotZero ∧
  decode 0x600001#24 = .illegal .zzNotZero

/-- R58: "Encoding then decoding a legal command returns it", for every command and every operand. -/
def Obligations.DecodeOfEncode : Prop :=
  ∀ i : Instr, decode (encode i) = .legal i

/-- R58: "decoding then encoding a legal word returns it", for every 24-bit word. -/
def Obligations.EncodeOfDecode : Prop :=
  ∀ (w : CmdWord) (i : Instr), decode w = .legal i → encode i = w

/-- R55: "a word w is the command of a row exactly when w & mask == match", the rows are disjoint, and "every word that
matches no row is illegal". -/
def Obligations.DecodeFollowsTheOpcodeMap : Prop :=
  (∀ (w : CmdWord) (r : OpRow), r ∈ opcodeTable →
    (r.matches w = true ↔ ∃ i, decode w = .legal i ∧ opRow i = r)) ∧
  (∀ (w : CmdWord) (r r' : OpRow), r ∈ opcodeTable → r' ∈ opcodeTable →
    r.matches w = true → r'.matches w = true → r = r') ∧
  (∀ w : CmdWord, (∀ r ∈ opcodeTable, r.matches w = false) ↔ ∃ why, decode w = .illegal why)

/-- R57: a word is ILLEGAL exactly when one of the clauses (a) to (e) holds. -/
def Obligations.IllegalExactlyByTheFiveClauses : Prop :=
  ∀ w : CmdWord, (∃ why, decode w = .illegal why) ↔
    (w.badOpcode = true ∨ w.badRz = true ∨ w.badReserved = true ∨ w.badRdpxV = true ∨ w.badRdbData = true)

/-- R56: the operands are the fields cmd[5:0], cmd[11:6], cmd[12], cmd[16:8], cmd[7:0], cmd[4], cmd[3:0], unsigned,
unscaled; and `cmd = (op << 20) | operand` with the four formats' operands. -/
def Obligations.OperandsAreTheWordsFields : Prop :=
  (∀ (w : CmdWord) (x y : Coord), decode w = .legal (.rdpx x y) →
    x.toNat = w.toNat % 64 ∧ y.toNat = w.toNat / 64 % 64) ∧
  (∀ (w : CmdWord) (x y : Coord) (v : Bool), decode w = .legal (.wrpx x y v) →
    x.toNat = w.toNat % 64 ∧ y.toNat = w.toNat / 64 % 64 ∧ v.toNat = w.toNat / 4096 % 2) ∧
  (∀ (w : CmdWord) (idx : Idx) (data : Byte), decode w = .legal (.ldb idx data) →
    idx.toNat = w.toNat / 256 % 512 ∧ data.toNat = w.toNat % 256) ∧
  (∀ (w : CmdWord) (idx : Idx), decode w = .legal (.rdb idx) → idx.toNat = w.toNat / 256 % 512) ∧
  (∀ (w : CmdWord) (p : Policy) (m : BitVec 4), decode w = .legal (.cfg p m) →
    m.toNat = w.toNat % 16 ∧ (p = .toroidal ↔ w.toNat / 16 % 2 = 1)) ∧
  (∀ (x y : Coord) (v : Bool), (encode (.wrpx x y v)).toNat =
    (2 <<< 20) ||| ((v.toNat <<< 12) ||| (y.toNat <<< 6) ||| x.toNat)) ∧
  (∀ x y : Coord, (encode (.rdpx x y)).toNat = (1 <<< 20) ||| ((y.toNat <<< 6) ||| x.toNat)) ∧
  (∀ (idx : Idx) (data : Byte), (encode (.ldb idx data)).toNat =
    (3 <<< 20) ||| ((idx.toNat <<< 8) ||| data.toNat)) ∧
  (∀ idx : Idx, (encode (.rdb idx)).toNat = (4 <<< 20) ||| (idx.toNat <<< 8)) ∧
  (∀ (p : Policy) (m : BitVec 4), (encode (.cfg p m)).toNat =
    (5 <<< 20) ||| ((p.toBit.toNat <<< 4) ||| m.toNat)) ∧
  encode .nop = 0x000000 ∧ encode .evolve = 0x600000 ∧ encode .stat = 0x700000

/-- R61: a line with an operand out of range is an assembler error, every word of an assembled line is legal, and the CFG word
holds N/8 and the policy. R62: SETPX, CLRPX, FILL, CLRG, SEED and DUMP expand to the listed commands in ascending index. That a
SEED line without a byte is refused is the model's choice (log entry 17). -/
def Obligations.AssemblerLinesExpandAsListed : Prop :=
  (∀ l : AsmLine, assembleWords l = none ↔ l.wellFormed = false) ∧
  (∀ (l : AsmLine) (ws : List CmdWord), assembleWords l = some ws → ∀ w ∈ ws, w.wellFormed = true) ∧
  (∀ x y : Nat, x < 64 → y < 64 →
    assembleWords (.setpx x y) = assembleWords (.wrpx x y 1) ∧
    assembleWords (.clrpx x y) = assembleWords (.wrpx x y 0) ∧
    assembleWords (.wrpx x y 1) = some [BitVec.ofNat 24 (0x200000 + 4096 + y * 64 + x)]) ∧
  (∀ b : Nat, b < 256 →
    assembleWords (.fill b) = some ((List.range 512).map fun i => BitVec.ofNat 24 (0x300000 + i * 256 + b))) ∧
  assembleWords .clrg = assembleWords (.fill 0) ∧
  (∀ bs : List Nat, 1 ≤ bs.length → bs.length ≤ 512 → (∀ b ∈ bs, b < 256) →
    ∃ ws, assembleWords (.seed bs) = some ws ∧ ws.length = bs.length ∧
      ∀ (i b : Nat), bs[i]? = some b → ws[i]? = some (BitVec.ofNat 24 (0x300000 + i * 256 + b))) ∧
  (∀ n : Nat, 1 ≤ n → n ≤ 512 →
    assembleWords (.dump n) = some ((List.range n).map fun i => BitVec.ofNat 24 (0x400000 + i * 256))) ∧
  (∀ (n : Nat) (p : Policy), n % 8 = 0 → n ≤ 120 →
    assembleWords (.cfg n p) = some [BitVec.ofNat 24 (0x500000 + p.toBit.toNat * 16 + n / 8)])

/-! ## The commands: result, completion, faults -/

/-- R120: NOP responds (0, 0x0000) and changes nothing; in the fault state it is refused with (1, CAUSE). -/
def Obligations.NopRespondsAndChangesNothing : Prop :=
  ∀ s : State,
    (s.fault = false → exec .nop s = .next { s with responses := s.responses ++ [⟨false, 0x0000⟩] }) ∧
    (s.fault = true → exec .nop s = .next { s with responses := s.responses ++ [⟨true, zext16 s.cause⟩] })

/-- R76: RDPX outside the fault state. Not configured: NOCFG. A coordinate not below N: COORD. Else the response is bit
7 - (x mod 8) of byte y × N8 + x div 8 of the front bank, zero-extended, and no state is written. -/
def Obligations.RdpxRespondsTheCell : Prop :=
  ∀ (s : State) (x y : Coord), s.fault = false →
    (s.n8 = 0#4 → exec (.rdpx x y) s = .next (raiseFault s .nocfg)) ∧
    (s.n8 ≠ 0#4 → (8 * s.n8.toNat ≤ x.toNat ∨ 8 * s.n8.toNat ≤ y.toNat) →
      exec (.rdpx x y) s = .next (raiseFault s .coord)) ∧
    (1 ≤ s.n8.toNat → s.n8.toNat ≤ 8 → x.toNat < 8 * s.n8.toNat → y.toNat < 8 * s.n8.toNat →
      exec (.rdpx x y) s = .next { s with
        responses := s.responses ++ [⟨false,
          if (readByte s s.front (BitVec.ofNat 9 (y.toNat * s.n8.toNat + x.toNat / 8))).getLsbD (7 - x.toNat % 8)
          then 0x0001 else 0x0000⟩] })

/-- R77: WRPX outside the fault state. NOCFG, then COORD, before any access, as RDPX. Else bit 7 - (x mod 8) of byte
y × N8 + x div 8 of the front bank becomes v, the other seven bits of it and every other byte of either bank keep their
values, no register changes, and the response is (0, 0x0000). -/
def Obligations.WrpxWritesOneCell : Prop :=
  ∀ (s : State) (x y : Coord) (v : Bool), s.fault = false →
    (s.n8 = 0#4 → exec (.wrpx x y v) s = .next (raiseFault s .nocfg)) ∧
    (s.n8 ≠ 0#4 → (8 * s.n8.toNat ≤ x.toNat ∨ 8 * s.n8.toNat ≤ y.toNat) →
      exec (.wrpx x y v) s = .next (raiseFault s .coord)) ∧
    (1 ≤ s.n8.toNat → s.n8.toNat ≤ 8 → x.toNat < 8 * s.n8.toNat → y.toNat < 8 * s.n8.toNat →
      ∃ t, exec (.wrpx x y v) s = .next t ∧
        (∀ j, j < 8 →
          (readByte t s.front (BitVec.ofNat 9 (y.toNat * s.n8.toNat + x.toNat / 8))).getLsbD j =
            if j = 7 - x.toNat % 8 then v
            else (readByte s s.front (BitVec.ofNat 9 (y.toNat * s.n8.toNat + x.toNat / 8))).getLsbD j) ∧
        (∀ (b : Bank) (i : Idx), ¬(b = s.front ∧ i = BitVec.ofNat 9 (y.toNat * s.n8.toNat + x.toNat / 8)) →
          readByte t b i = readByte s b i) ∧
        t = { s with g0 := t.g0, g1 := t.g1, responses := s.responses ++ [⟨false, 0x0000⟩] })

/-- R78: LDB outside the fault state, for every index, configured or not: byte idx of the front bank becomes data, every
other byte of either bank keeps its value, no register changes, and the response is (0, 0x0000). -/
def Obligations.LdbStoresTheByte : Prop :=
  ∀ (s : State) (idx : Idx) (data : Byte), s.fault = false →
    ∃ t, exec (.ldb idx data) s = .next t ∧
      readByte t s.front idx = data ∧
      (∀ (b : Bank) (i : Idx), ¬(b = s.front ∧ i = idx) → readByte t b i = readByte s b i) ∧
      t = { s with g0 := t.g0, g1 := t.g1, responses := s.responses ++ [⟨false, 0x0000⟩] }

/-- R79: RDB outside the fault state, for every index, configured or not: the response is byte idx of the front bank,
zero-extended, and no state is written. -/
def Obligations.RdbRespondsTheByte : Prop :=
  ∀ (s : State) (idx : Idx), s.fault = false →
    exec (.rdb idx) s = .next { s with
      responses := s.responses ++ [⟨false, BitVec.ofNat 16 (readByte s s.front idx).toNat⟩] }

/-- R121: CFG outside the fault state. n8 = 0 or n8 > 8: BADN, before any write. Else N8 and POLICY are written
together, nothing else changes, and the response is (0, 0x0000). -/
def Obligations.CfgWritesBothFieldsOrFaults : Prop :=
  ∀ (s : State) (p : Policy) (m : BitVec 4), s.fault = false →
    (m.toNat = 0 ∨ 8 < m.toNat → exec (.cfg p m) s = .next (raiseFault s .badn)) ∧
    (1 ≤ m.toNat → m.toNat ≤ 8 → exec (.cfg p m) s = .next { s with
      n8 := m, policy := p, responses := s.responses ++ [⟨false, 0x0000⟩] })

/-- R122, R16: STAT responds the status word, in the fault state too, and changes nothing. The word is FAULT in bit 0,
CAUSE in bits 3:1, FRONT in bit 4, POLICY in bit 5, N8 in bits 9:6, zero in bits 15:10. -/
def Obligations.StatRespondsTheStatusWord : Prop :=
  ∀ s : State, exec .stat s = .next { s with
    responses := s.responses ++ [⟨false, BitVec.ofNat 16
      (s.fault.toNat + 2 * s.cause.toNat + 16 * s.front.toNat + 32 * s.policy.toBit.toNat + 64 * s.n8.toNat)⟩] }

/-- R99, R100: the transition table of an EVOLVE. Acceptance outside the fault state: not configured, NOCFG; else CY <- 0,
CX <- 0, to CENTER, no response yet. Then, from every state that meets the invariants, each row of CENTER, NEIGH, WRITE and
SWAP, with all its actions at once and everything else unchanged. -/
def Obligations.EvolveFollowsItsTransitionTable : Prop :=
  (∀ s : State, s.fault = false →
    (s.n8 = 0#4 → exec .evolve s = .next (raiseFault s .nocfg)) ∧
    (s.n8 ≠ 0#4 → exec .evolve s = .next { s with cy := 0, cx := 0, ph := .center })) ∧
  (∀ s : State, Inv s →
    (s.ph = .center → seqStep s = .next { s with
      alive := getCell s s.front s.cx.toNat s.cy.toNat s.side, cnt := 0, k := 0, ph := .neigh }) ∧
    (s.ph = .neigh → ∃ c, seqStep s = .next { s with
        cnt := c
        k := if s.k = 7 then 7 else s.k + 1
        ph := if s.k = 7 then .write else .neigh } ∧
      (neighbour s.cx.toNat s.cy.toNat s.k.toNat s.side s.policy = none → c = s.cnt) ∧
      (∀ nx ny : Nat, neighbour s.cx.toNat s.cy.toNat s.k.toNat s.side s.policy = some (nx, ny) →
        c.toNat = s.cnt.toNat + (getCell s s.front nx ny s.side).toNat)) ∧
    (s.ph = .write → ∃ t, seqStep s = .next t ∧
      t = { setCell s (!s.front) s.cx.toNat s.cy.toNat s.side (nextState s.alive s.cnt.toNat) with
        cx := t.cx, cy := t.cy, ph := t.ph } ∧
      (s.cx.toNat + 1 < s.side → t.cx.toNat = s.cx.toNat + 1 ∧ t.cy = s.cy ∧ t.ph = .center) ∧
      (s.cx.toNat + 1 = s.side → s.cy.toNat + 1 < s.side →
        t.cx = 0 ∧ t.cy.toNat = s.cy.toNat + 1 ∧ t.ph = .center) ∧
      (s.cx.toNat + 1 = s.side → s.cy.toNat + 1 = s.side → t.cx = s.cx ∧ t.cy = s.cy ∧ t.ph = .swap)) ∧
    (s.ph = .swap → seqStep s = .next { s with
      front := !s.front, ph := .idle, responses := s.responses ++ [⟨false, 0x0000⟩] }))

/-- R99 (R98, R100, R103): EVOLVE, not configured, faults NOCFG. The whole EVOLVE of a configured block completes in the
micro-steps of R100 with one response (0, 0x0000); the new front bank's bytes 0..GRIDB-1 are next_grid of the old front
bank's, whatever the back bank held; the new back bank is the old front bank, byte for byte; the trailing bytes of both banks
are unchanged; FRONT is inverted; and the leftover sequencer registers are those of the cell (N-1, N-1). -/
def Obligations.EvolveProducesTheNextGrid : Prop :=
  (∀ s : State, s.fault = false → s.n8 = 0#4 → exec .evolve s = .next (raiseFault s .nocfg)) ∧
  ∀ s : State, Configured s →
    ∃ s1 t, exec .evolve s = .next s1 ∧ settle (microSteps s.side) s1 = .next t ∧
      (∀ i : Idx, i.toNat < gridBytes s.side →
        readByte t t.front i = nextGridByte (readByte s s.front) s.side s.policy i.toNat) ∧
      (∀ i : Idx, readByte t (!t.front) i = readByte s s.front i) ∧
      (∀ i : Idx, gridBytes s.side ≤ i.toNat → readByte t t.front i = readByte s (!s.front) i) ∧
      t = { s with
        g0 := t.g0, g1 := t.g1, front := !s.front, k := 7
        cx := BitVec.ofNat 6 (s.side - 1), cy := BitVec.ofNat 6 (s.side - 1)
        cnt := BitVec.ofNat 4 (countLive (readByte s s.front) (s.side - 1) (s.side - 1) s.side s.policy)
        alive := getCell s s.front (s.side - 1) (s.side - 1) s.side
        responses := s.responses ++ [⟨false, 0x0000⟩] }

/-! ## Faults -/

/-- R134 (codes: R131): fault entry sets FAULT, the cause code 1 to 4 and PH = FAULTED, responds (1, code), raises the
`fault` port, and changes nothing else. -/
def Obligations.FaultEntryWritesOnlyTheFaultState : Prop :=
  (∀ (s : State) (c : Cause), raiseFault s c = { s with
    fault := true, cause := c.code, ph := .faulted
    responses := s.responses ++ [⟨true, BitVec.ofNat 16 c.code.toNat⟩] }) ∧
  (∀ (s : State) (c : Cause), faultOut (raiseFault s c) = true) ∧
  Cause.code .illcmd = 1 ∧ Cause.code .nocfg = 2 ∧ Cause.code .badn = 3 ∧ Cause.code .coord = 4

/-- R57, R60, R131: an illegal word (by the clauses of R57) presented to an idle block that is not in the fault state
raises ILLCMD, response (1, 0x0001). -/
def Obligations.IllegalWordRaisesIllcmd : Prop :=
  ∀ (s : State) (w : CmdWord) (rest : List HostAction),
    s.pending = .cmd w :: rest → s.ph = .idle → s.fault = false → w.wellFormed = false →
    step s = .next { s with
      pending := rest, fault := true, cause := 1, ph := .faulted
      responses := s.responses ++ [⟨true, 0x0001⟩] }

/-- R131, R132: which fault a command raises: ILLCMD first, then NOCFG, then BADN or COORD, and none otherwise. -/
def Obligations.FaultsComeInTheirPriority : Prop :=
  ∀ (s : State) (w : CmdWord) (rest : List HostAction),
    Inv s → s.pending = .cmd w :: rest → s.ph = .idle →
    ∃ t, step s = .next t ∧
      match faultOf w s with
      | none => t.fault = false ∧ t.cause = 0
      | some c => t.fault = true ∧ t.cause = c.code ∧ t.responses = s.responses ++ [⟨true, zext16 c.code⟩]

/-- R133, R137: a command that faults changes nothing but FAULT, CAUSE and PH (and delivers its response). -/
def Obligations.FaultingCommandChangesNothingElse : Prop :=
  ∀ (s t : State) (i : Instr), s.fault = false → exec i s = .next t → t.fault = true →
    t = { s with fault := true, cause := t.cause, ph := .faulted, responses := t.responses }

/-- R135: in the fault state a word that decodes to STAT is answered (0, status_word), every other word, legal or not,
is refused with (1, CAUSE), and no state changes; no sequence of commands leaves the fault state or changes CAUSE. -/
def Obligations.FaultStateServesOnlyStat : Prop :=
  (∀ (s : State) (w : CmdWord) (rest : List HostAction),
    s.pending = .cmd w :: rest → s.fault = true → s.ph = .faulted →
    (decode w = .legal .stat → step s = .next { s with
      pending := rest, responses := s.responses ++ [⟨false, statusWord s⟩] }) ∧
    (decode w ≠ .legal .stat → step s = .next { s with
      pending := rest, responses := s.responses ++ [⟨true, BitVec.ofNat 16 s.cause.toNat⟩] })) ∧
  (∀ (n : Nat) (s : State), s.fault = true → s.ph = .faulted → onlyCommands s.pending = true →
    ∃ t, Host.Core.run core n s = .next t ∧
      t = { s with pending := t.pending, responses := t.responses })

/-! ## Frames -/

/-- R36, R37, R76, R79, R120, R122: NOP, RDPX, RDB and STAT that raise no fault change nothing but the responses. -/
def Obligations.ReadingCommandsFrame : Prop :=
  ∀ (i : Instr) (s t : State), (i = .nop ∨ i = .stat ∨ (∃ x y, i = .rdpx x y) ∨ ∃ idx, i = .rdb idx) →
    exec i s = .next t → t.fault = s.fault →
    ∃ r, t = { s with responses := s.responses ++ [r] }

/-- R36, R77, R78: WRPX and LDB. Every byte of either bank other than the front-bank byte they address reads as before;
CFG, FRONT, the sequencer's registers CX, CY, K, CNT, ALIVE are unchanged; FAULT, CAUSE and PH are unchanged unless the
command raises a fault. -/
def Obligations.StoringCommandsFrame : Prop :=
  (∀ (x y : Coord) (v : Bool) (s t : State), exec (.wrpx x y v) s = .next t →
    (∀ (b : Bank) (i : Idx), ¬(b = s.front ∧ i = byteIndex x.toNat y.toNat (sideOf s.n8)) →
      readByte t b i = readByte s b i) ∧
    t = { s with g0 := t.g0, g1 := t.g1, fault := t.fault, cause := t.cause, ph := t.ph, responses := t.responses } ∧
    (t.fault = s.fault → t.cause = s.cause ∧ t.ph = s.ph)) ∧
  (∀ (idx : Idx) (data : Byte) (s t : State), exec (.ldb idx data) s = .next t →
    (∀ (b : Bank) (i : Idx), ¬(b = s.front ∧ i = idx) → readByte t b i = readByte s b i) ∧
    t = { s with g0 := t.g0, g1 := t.g1, responses := t.responses })

/-- R121, R99: CFG and the acceptance of EVOLVE store no byte. CFG leaves FRONT and the sequencer's registers; EVOLVE's
acceptance leaves CFG, FRONT, K, CNT, ALIVE; FAULT and CAUSE change only when the command raises a fault. -/
def Obligations.ConfiguringAndStartingFrame : Prop :=
  (∀ (p : Policy) (m : BitVec 4) (s t : State), exec (.cfg p m) s = .next t →
    t = { s with n8 := t.n8, policy := t.policy, fault := t.fault, cause := t.cause, ph := t.ph,
                 responses := t.responses } ∧
    (t.fault = s.fault → t.cause = s.cause ∧ t.ph = s.ph) ∧
    (t.fault ≠ s.fault → t.n8 = s.n8 ∧ t.policy = s.policy)) ∧
  (∀ s t : State, exec .evolve s = .next t →
    t = { s with cx := t.cx, cy := t.cy, fault := t.fault, cause := t.cause, ph := t.ph, responses := t.responses } ∧
    (t.fault = s.fault → t.cause = s.cause) ∧
    (s.fault = false → t.fault = false → t.responses = s.responses))

/-- R38, R100, R159: a micro-step never changes a byte of the front bank; in the back bank only WRITE changes a byte, the
one at byte_index(CX, CY, N); CFG, FAULT and CAUSE never change; FRONT changes and a response is delivered only in SWAP. -/
def Obligations.MicroStepFrame : Prop :=
  ∀ s t : State, seqStep s = .next t →
    (∀ i : Idx, readByte t s.front i = readByte s s.front i) ∧
    (∀ i : Idx, ¬(s.ph = .write ∧ i = byteIndex s.cx.toNat s.cy.toNat (sideOf s.n8)) →
      readByte t (!s.front) i = readByte s (!s.front) i) ∧
    t.n8 = s.n8 ∧ t.policy = s.policy ∧ t.fault = s.fault ∧ t.cause = s.cause ∧
    t.resets = s.resets ∧ t.pending = s.pending ∧
    (s.ph ≠ .swap → t.front = s.front ∧ t.responses = s.responses) ∧
    (s.ph = .swap → t.front = !s.front ∧ t.responses = s.responses ++ [⟨false, 0x0000⟩])

/-- R36: the bytes a command or a micro-step changes are among the writes listed for it; every access is to a bank's
byte, and host commands address the front bank only. -/
def Obligations.ChangedBytesAreListedAccesses : Prop :=
  (∀ (i : Instr) (s t : State) (b : Bank) (j : Idx), exec i s = .next t →
    Access.write b j ∉ instrAccesses i s → readByte t b j = readByte s b j) ∧
  (∀ (s t : State) (b : Bank) (j : Idx), seqStep s = .next t →
    Access.write b j ∉ seqAccesses s → readByte t b j = readByte s b j) ∧
  (∀ (i : Instr) (s : State) (b : Bank) (j : Idx),
    (Access.read b j ∈ instrAccesses i s ∨ Access.write b j ∈ instrAccesses i s) → b = s.front)

/-- R36, R101: an EVOLVE makes exactly the accesses R36 lists, in that order: for every cell in row-major order its
front-bank byte, the byte of each neighbour that is not ABSENT, and a read and a write of the back bank's byte. -/
def Obligations.EvolveMakesTheListedAccesses : Prop :=
  ∀ s : State, Configured s →
    ∃ s1, exec .evolve s = .next s1 ∧
      traceAccesses (microSteps s.side) s1 = evolveAccesses s.front s.side s.policy

/-! ## The step -/

/-- R60: a legal word presented to a block that can accept one is executed by its rule: the step is `exec` of the decoded
command, the word being taken from the host's actions first. -/
def Obligations.StepRunsTheDecodedCommand : Prop :=
  ∀ (s : State) (w : CmdWord) (rest : List HostAction) (i : Instr),
    s.pending = .cmd w :: rest → (s.ph = .idle ∨ s.ph = .faulted) → decode w = .legal i →
    step s = exec i { s with pending := rest }

/-- R60, R161: a command presented while an EVOLVE runs waits: it stays presented, and the micro-step is the one the block
would take with any other word, or no word, presented. -/
def Obligations.CommandWaitsWhileEvolveRuns : Prop :=
  ∀ (s t : State) (w : CmdWord) (rest : List HostAction),
    s.pending = .cmd w :: rest → s.ph.busy = true → step s = .next t →
    t.pending = .cmd w :: rest ∧
    (∀ (w' : CmdWord) (rest' : List HostAction),
      step { s with pending := .cmd w' :: rest' } = .next { t with pending := .cmd w' :: rest' }) ∧
    step { s with pending := [] } = .next { t with pending := [] }

/-- R142, R154: a block that is not in an EVOLVE and is presented nothing keeps all its state; after reset it waits. -/
def Obligations.IdleBlockKeepsAllState : Prop :=
  (∀ s : State, s.pending = [] → s.ph.busy = false → step s = .next s) ∧
  (∀ (s : State) (rest : List HostAction), s.pending = .quiet :: rest → s.ph.busy = false →
    step s = .next { s with pending := rest }) ∧
  step State.reset = .next State.reset

/-- R150, R151, R152: rst, whatever the block was doing (an EVOLVE in progress and the fault state among it), gives every
register its value of R25, delivers no response, and leaves a block that can accept a command. -/
def Obligations.ResetGivesTheRegistersFromAnyState : Prop :=
  ∀ (s : State) (rest : List HostAction), s.pending = .rst :: rest →
    ∃ t, step s = .next t ∧
      t.n8 = 0#4 ∧ t.policy = .clamped ∧ t.front = false ∧ t.fault = false ∧ t.cause = 0 ∧ t.ph = .idle ∧
      t.cy = 0 ∧ t.cx = 0 ∧ t.k = 0 ∧ t.cnt = 0 ∧ t.alive = false ∧
      t.responses = s.responses ∧ t.pending = rest ∧ cmdReady t = true ∧ statusWord t = 0

/-- Model's choice (log entries 1 and 2), for "after reset each byte is a free input": after a reset every byte of both banks
is the free value of THAT reset, another one than before, whatever the banks held; nothing relates it to what was there
before. It holds for every number of resets. -/
def Obligations.ResetFreesEveryBankByte : Prop :=
  (∀ (b : Bank) (i : Idx), readByte State.reset b i = Config.gReset State.reset.resets b i) ∧
  (∀ (s : State) (rest : List HostAction), s.pending = .rst :: rest →
    ∃ t, step s = .next t ∧ t.resets ≠ s.resets ∧
      ∀ (b : Bank) (i : Idx), readByte t b i = Config.gReset t.resets b i)

/-- R25: the registers and the derived views right after reset. -/
def Obligations.ResetStateRegisters : Prop :=
  State.reset.n8 = 0#4 ∧ State.reset.policy = .clamped ∧ State.reset.front = false ∧ State.reset.fault = false ∧
  State.reset.cause = 0 ∧ State.reset.ph = .idle ∧ State.reset.cy = 0 ∧ State.reset.cx = 0 ∧ State.reset.k = 0 ∧
  State.reset.cnt = 0 ∧ State.reset.alive = false ∧ cmdReady State.reset = true ∧ busyOut State.reset = false ∧
  faultOut State.reset = false ∧ statusWord State.reset = 0x0000

/-! ## Invariants and whole-machine rules -/

/-- R26 holds right after reset, and the banks are canonical. -/
def Obligations.InvariantHoldsAtReset : Prop := Inv State.reset ∧ InvScan State.reset

/-- R26: every step, from every state that meets them, keeps the invariants (a), (b), (c), (e), (f), (g) and the banks'
canonical form. -/
def Obligations.InvariantKeptByEveryStep : Prop :=
  ∀ s t : State, Inv s → step s = .next t → Inv t

/-- R19, R97, R104 (b): every step keeps what the scratch registers mean: ALIVE is the current cell and CNT the count so
far, so the rule is applied in WRITE to the complete count only. -/
def Obligations.ScanRegistersMeanTheCount : Prop :=
  ∀ s t : State, Inv s → InvScan s → step s = .next t → InvScan t

/-- R105, R139: from every state that meets the invariants a step answers a next state; the codec is never called outside
its domain. -/
def Obligations.NoStepStops : Prop :=
  ∀ s : State, Inv s → ∃ t, step s = .next t

/-- R14: FRONT is written only by SWAP, which inverts it, and by reset, which clears it. -/
def Obligations.FrontChangesOnlyInSwapOrReset : Prop :=
  ∀ s t : State, step s = .next t → t.front ≠ s.front →
    s.ph = .swap ∨ ∃ rest, s.pending = .rst :: rest

/-- R13: CFG is written only by a successful CFG command, both fields together, with N8 in 1..8, and by reset. -/
def Obligations.ConfigurationChangesOnlyByCfgOrReset : Prop :=
  ∀ s t : State, step s = .next t → (t.n8 ≠ s.n8 ∨ t.policy ≠ s.policy) →
    (∃ rest, s.pending = .rst :: rest) ∨
    ∃ (w : CmdWord) (rest : List HostAction) (p : Policy) (m : BitVec 4),
      s.pending = .cmd w :: rest ∧ decode w = .legal (.cfg p m) ∧ s.fault = false ∧
      t.n8 = m ∧ t.policy = p ∧ 1 ≤ m.toNat ∧ m.toNat ≤ 8

/-- R15: FAULT and CAUSE are written only by fault entry, from a state with FAULT = 0, and by reset. -/
def Obligations.FaultFlagsChangeOnlyByEntryOrReset : Prop :=
  ∀ s t : State, step s = .next t → (t.fault ≠ s.fault ∨ t.cause ≠ s.cause) →
    (∃ rest, s.pending = .rst :: rest) ∨
    (s.fault = false ∧ t.fault = true ∧ t.ph = .faulted ∧ ∃ c : Cause, t.cause = c.code)

/-- R59, R60, R104, R165: from every state that meets the invariants and can accept a command, a list of command words,
legal or not, runs to its end, and delivers exactly one response per word; the block is then in IDLE or FAULTED. -/
def Obligations.OneResponsePerCommandWord : Prop :=
  ∀ (ws : List CmdWord) (s : State), Inv s → s.ph.busy = false →
    ∃ t rs, runCommands ws s = .next t ∧ t.responses = s.responses ++ rs ∧ rs.length = ws.length ∧
      (t.ph = .idle ∨ t.ph = .faulted) ∧ Inv t

/-- R60, R165: the command level is what the step does: with the words presented one after the other, the step run long
enough ends in the state the command-level run gives. -/
def Obligations.StepsPerformTheCommandRun : Prop :=
  ∀ (ws : List CmdWord) (s : State), Inv s → s.ph.busy = false →
    ∃ n t, runCommands ws s = .next t ∧
      Host.Core.run core n { s with pending := ws.map HostAction.cmd } = .next { t with pending := [] }

/-! ## The codec -/

/-- R72, R80: for every legal side and every cell in range byte_index is exact, below GRIDB, and GRIDB is at most 512; the
value 511 is reached only at N = 64, x ≥ 56, y = 63. -/
def Obligations.CellsStayInsideTheGridBytes : Prop :=
  ∀ m x y : Nat, 1 ≤ m → m ≤ 8 → x < 8 * m → y < 8 * m →
    (byteIndex x y (8 * m)).toNat = y * m + x / 8 ∧
    (byteIndex x y (8 * m)).toNat < gridBytes (8 * m) ∧ gridBytes (8 * m) ≤ 512 ∧
    ((byteIndex x y (8 * m)).toNat = 511 ↔ m = 8 ∧ 56 ≤ x ∧ y = 63)

/-- R42: the codec is a bijection between the N² cells and the 8 × GRIDB bits of bytes 0..GRIDB-1, with the stated
inverse. -/
def Obligations.CodecIsABijection : Prop :=
  ∀ m : Nat, 1 ≤ m → m ≤ 8 →
    (∀ (idx : Idx) (b : Nat), idx.toNat < gridBytes (8 * m) → b < 8 →
      cellColumn idx.toNat b (8 * m) < 8 * m ∧ cellRow idx.toNat (8 * m) < 8 * m ∧
      byteIndex (cellColumn idx.toNat b (8 * m)) (cellRow idx.toNat (8 * m)) (8 * m) = idx ∧
      bitIndex (cellColumn idx.toNat b (8 * m)) = b) ∧
    (∀ x y : Nat, x < 8 * m → y < 8 * m →
      (byteIndex x y (8 * m)).toNat < gridBytes (8 * m) ∧
      cellColumn (byteIndex x y (8 * m)).toNat (bitIndex x) (8 * m) = x ∧
      cellRow (byteIndex x y (8 * m)).toNat (8 * m) = y)

/-- R75 (a), (c): after cell_set the cell reads v and every other cell of the grid, and every byte but the cell's own,
reads as before. -/
def Obligations.CellWriteThenReadBack : Prop :=
  ∀ (s : State) (b : Bank) (m x y x' y' : Nat) (v : Bool), 1 ≤ m → m ≤ 8 →
    x < 8 * m → y < 8 * m → x' < 8 * m → y' < 8 * m →
    getCell (setCell s b x y (8 * m) v) b x' y' (8 * m) =
      (if x' = x ∧ y' = y then v else getCell s b x' y' (8 * m)) ∧
    (∀ (c : Bank) (i : Idx), ¬(c = b ∧ i = byteIndex x y (8 * m)) →
      readByte (setCell s b x y (8 * m) v) c i = readByte s c i)

/-- R75 (d): cell_set is idempotent, and two cell_set at different cells commute, seen through every byte. -/
def Obligations.CellWritesCommute : Prop :=
  ∀ (s : State) (b : Bank) (m x y x' y' : Nat) (v v' : Bool), 1 ≤ m → m ≤ 8 →
    x < 8 * m → y < 8 * m → x' < 8 * m → y' < 8 * m →
    (∀ (c : Bank) (i : Idx), readByte (setCell (setCell s b x y (8 * m) v) b x y (8 * m) v) c i =
      readByte (setCell s b x y (8 * m) v) c i) ∧
    ((x, y) ≠ (x', y') → ∀ (c : Bank) (i : Idx),
      readByte (setCell (setCell s b x y (8 * m) v) b x' y' (8 * m) v') c i =
      readByte (setCell (setCell s b x' y' (8 * m) v') b x y (8 * m) v) c i)

/-- R31, R75 (b): for x = 0..7, y = 0 the cells are bits 7..0 of byte 0, and in general cell x of a row lies in bit
7 - (x mod 8) of its byte. -/
def Obligations.CellsAreMostSignificantBitFirst : Prop :=
  ∀ (s : State) (b : Bank) (m x y : Nat), 1 ≤ m → m ≤ 8 → x < 8 * m → y < 8 * m →
    getCell s b x y (8 * m) = (readByte s b (byteIndex x y (8 * m))).getLsbD (7 - x % 8) ∧
    (x < 8 → getCell s b x 0 (8 * m) = (readByte s b 0).getLsbD (7 - x))

/-- R39 (a): on the command port a RDB after a LDB of the same index returns the byte, and a RDPX after a WRPX of the same
cell returns the cell. -/
def Obligations.ReadsSeeTheLatestWrite : Prop :=
  (∀ (s : State) (idx : Idx) (data : Byte), s.ph = .idle → s.fault = false →
    ∃ t, runCommands [encode (.ldb idx data), encode (.rdb idx)] s = .next t ∧
      t.responses = s.responses ++ [⟨false, 0x0000⟩, ⟨false, BitVec.ofNat 16 data.toNat⟩]) ∧
  (∀ (s : State) (x y : Coord) (v : Bool), Configured s → x.toNat < s.side → y.toNat < s.side →
    ∃ t, runCommands [encode (.wrpx x y v), encode (.rdpx x y)] s = .next t ∧
      t.responses = s.responses ++ [⟨false, 0x0000⟩, ⟨false, if v then 0x0001 else 0x0000⟩])

/-- R162: CFG writes no byte, and from the next command on the same bytes are read with the new stride. -/
def Obligations.ReconfigurationReinterpretsTheBytes : Prop :=
  ∀ (s : State) (p : Policy) (m : BitVec 4) (x y : Coord), s.fault = false → s.ph = .idle →
    1 ≤ m.toNat → m.toNat ≤ 8 → x.toNat < 8 * m.toNat → y.toNat < 8 * m.toNat →
    ∃ t, runCommands [encode (.cfg p m), encode (.rdpx x y)] s = .next t ∧
      (∀ (b : Bank) (i : Idx), readByte t b i = readByte s b i) ∧
      t.responses = s.responses ++ [⟨false, 0x0000⟩, ⟨false,
        if (readByte s s.front (BitVec.ofNat 9 (y.toNat * m.toNat + x.toNat / 8))).getLsbD (7 - x.toNat % 8)
        then 0x0001 else 0x0000⟩]

/-! ## The cell-update engine -/

/-- R90: the eight offsets in their order. -/
def Obligations.OffsetsAreTheWindowWithoutItsCentre : Prop :=
  (List.range 8).map (fun k => (offsetX k, offsetY k)) =
    [(-1, -1), (0, -1), (1, -1), (-1, 0), (1, 0), (-1, 1), (0, 1), (1, 1)]

/-- R95: next_state is 1 exactly when n = 3, or the cell is alive and n = 2. -/
def Obligations.RuleIsBirthOnThreeSurvivalOnTwoOrThree : Prop :=
  ∀ (alive : Bool) (n : Nat), nextState alive n = true ↔ (n = 3 ∨ (alive = true ∧ n = 2))

/-- R91: for a cell in range a resolved neighbour is in range; clamped, it is (x + dx, y + dy) and is ABSENT exactly when
that falls outside on either axis; toroidal, it is ((x + dx + N) mod N, (y + dy + N) mod N). -/
def Obligations.NeighboursResolveByPolicy : Prop :=
  ∀ n x y k : Nat, x < n → y < n → k < 8 →
    (∀ (p : Policy) (nx ny : Nat), neighbour x y k n p = some (nx, ny) → nx < n ∧ ny < n) ∧
    (neighbour x y k n .clamped = none ↔
      ((x : Int) + offsetX k < 0 ∨ (n : Int) ≤ x + offsetX k ∨ (y : Int) + offsetY k < 0 ∨ (n : Int) ≤ y + offsetY k)) ∧
    (∀ nx ny : Nat, neighbour x y k n .clamped = some (nx, ny) →
      (nx : Int) = x + offsetX k ∧ (ny : Int) = y + offsetY k) ∧
    (∃ nx ny : Nat, neighbour x y k n .toroidal = some (nx, ny) ∧
      (nx : Int) = (x + offsetX k + n) % n ∧ (ny : Int) = (y + offsetY k + n) % n)

/-- R92: the ABSENT offsets of the clamped policy, and the totals 3 at a corner, 5 on an edge, 8 inside. -/
def Obligations.ClampedEdgesHaveFewerNeighbours : Prop :=
  ∀ n x y : Nat, 2 ≤ n → x < n → y < n →
    (∀ k, k < 8 → (neighbour x y k n .clamped = none ↔
      ((y = 0 ∧ k ∈ [0, 1, 2]) ∨ (y = n - 1 ∧ k ∈ [5, 6, 7]) ∨ (x = 0 ∧ k ∈ [0, 3, 5]) ∨
        (x = n - 1 ∧ k ∈ [2, 4, 7])))) ∧
    (List.range 8).countP (fun k => (neighbour x y k n .clamped).isSome) =
      (if x = 0 ∨ x = n - 1 then (if y = 0 ∨ y = n - 1 then 3 else 5)
       else if y = 0 ∨ y = n - 1 then 5 else 8)

/-- R93: under the toroidal policy every cell has exactly eight neighbours, pairwise distinct and none of them itself. -/
def Obligations.ToroidalCellsHaveEightDistinctNeighbours : Prop :=
  ∀ n x y : Nat, 3 ≤ n → x < n → y < n →
    (∀ k, k < 8 → (neighbour x y k n .toroidal).isSome = true) ∧
    (∀ k k', k < 8 → k' < 8 → k ≠ k' → neighbour x y k n .toroidal ≠ neighbour x y k' n .toroidal) ∧
    (∀ k, k < 8 → neighbour x y k n .toroidal ≠ some (x, y))

/-- R104: from every state with PH = IDLE, FAULT = 0 and a configured side, the micro-steps of R100 run to PH = IDLE end
in a state whose G[0], G[1], CFG, FRONT, FAULT and CAUSE are those of the big step of R99, with the same response. -/
def Obligations.MicroStepsAgreeWithTheBigStep : Prop :=
  ∀ s : State, Configured s →
    ∃ t, settle (microSteps s.side) (startEvolve s) = .next t ∧ t.ph = .idle ∧
      t.g0 = (evolveBig s).g0 ∧ t.g1 = (evolveBig s).g1 ∧ t.n8 = (evolveBig s).n8 ∧ t.policy = (evolveBig s).policy ∧
      t.front = (evolveBig s).front ∧ t.fault = (evolveBig s).fault ∧ t.cause = (evolveBig s).cause ∧
      t.responses = (evolveBig s).responses

/-- R100: an EVOLVE takes exactly 10 × N² + 1 micro-steps after the accepting transition: with nothing more presented, the
block is busy after every smaller number of steps and in IDLE after that many. -/
def Obligations.EvolveTakesTheStatedMicroSteps : Prop :=
  ∀ s : State, Configured s → s.pending = [] →
    (∀ n, n < microSteps s.side → ∃ t, Host.Core.run core n (startEvolve s) = .next t ∧ t.ph.busy = true) ∧
    (∃ t, Host.Core.run core (microSteps s.side) (startEvolve s) = .next t ∧ t.ph = .idle)

/-- R99, R106 (a), R34, R38: the new generation depends on nothing but the old front bank's bytes 0..GRIDB-1, N and the
policy: two configured states that agree on those give equal new grids, whatever else differs. -/
def Obligations.EvolveDependsOnlyOnTheFrontGrid : Prop :=
  ∀ s s' : State, Configured s → Configured s' → s.n8 = s'.n8 → s.policy = s'.policy →
    SameGrid s s' s.front s'.front s.side →
    ∃ t t', settle (microSteps s.side) (startEvolve s) = .next t ∧
      settle (microSteps s.side) (startEvolve s') = .next t' ∧
      SameGrid t t' t.front t'.front s.side

/-- R106 (b): an all-dead grid evolves to an all-dead grid under either policy. -/
def Obligations.AllDeadGridStaysDead : Prop :=
  ∀ s : State, Configured s → (∀ i : Idx, i.toNat < gridBytes s.side → readByte s s.front i = 0) →
    ∃ t, settle (microSteps s.side) (startEvolve s) = .next t ∧
      ∀ i : Idx, i.toNat < gridBytes s.side → readByte t t.front i = 0

/-- R106 (c): a 2×2 block of live cells away from any edge is unchanged by one evolution step under both policies. -/
def Obligations.BlockIsAStillLife : Prop :=
  ∀ (s : State) (a b : Nat), Configured s → 1 ≤ a → a + 2 < s.side → 1 ≤ b → b + 2 < s.side →
    (∀ x y, x < s.side → y < s.side →
      getCell s s.front x y s.side = decide ((x = a ∨ x = a + 1) ∧ (y = b ∨ y = b + 1))) →
    ∃ t, settle (microSteps s.side) (startEvolve s) = .next t ∧ SameGrid t s t.front s.front s.side

/-- R106 (d): under the toroidal policy the next generation commutes with every cyclic shift of rows and columns. -/
def Obligations.ToroidalEvolutionCommutesWithShifts : Prop :=
  ∀ (rd rd' : Idx → Byte) (n a b : Nat), 3 ≤ n →
    (∀ x y, x < n → y < n → cellGet rd' x y n = cellGet rd ((x + a) % n) ((y + b) % n) n) →
    ∀ x y, x < n → y < n →
      nextCell rd' x y n .toroidal = nextCell rd ((x + a) % n) ((y + b) % n) n .toroidal
end

