-- ==== Sys2Proof/Laws/State.lean ====
section
/-! SUPPORT. One lemma per field per update: what each shared state update leaves in every field. Later proofs rewrite
with these and do not unfold a record update. -/

namespace Sys2Proof.Machine

variable (s : State)

/-! ### respond (R59) -/

@[simp] theorem respond_g0 (e : Bool) (d : RspData) : (respond s e d).g0 = s.g0 := rfl
@[simp] theorem respond_g1 (e : Bool) (d : RspData) : (respond s e d).g1 = s.g1 := rfl
@[simp] theorem respond_n8 (e : Bool) (d : RspData) : (respond s e d).n8 = s.n8 := rfl
@[simp] theorem respond_policy (e : Bool) (d : RspData) : (respond s e d).policy = s.policy := rfl
@[simp] theorem respond_front (e : Bool) (d : RspData) : (respond s e d).front = s.front := rfl
@[simp] theorem respond_fault (e : Bool) (d : RspData) : (respond s e d).fault = s.fault := rfl
@[simp] theorem respond_cause (e : Bool) (d : RspData) : (respond s e d).cause = s.cause := rfl
@[simp] theorem respond_ph (e : Bool) (d : RspData) : (respond s e d).ph = s.ph := rfl
@[simp] theorem respond_cy (e : Bool) (d : RspData) : (respond s e d).cy = s.cy := rfl
@[simp] theorem respond_cx (e : Bool) (d : RspData) : (respond s e d).cx = s.cx := rfl
@[simp] theorem respond_k (e : Bool) (d : RspData) : (respond s e d).k = s.k := rfl
@[simp] theorem respond_cnt (e : Bool) (d : RspData) : (respond s e d).cnt = s.cnt := rfl
@[simp] theorem respond_alive (e : Bool) (d : RspData) : (respond s e d).alive = s.alive := rfl
@[simp] theorem respond_resets (e : Bool) (d : RspData) : (respond s e d).resets = s.resets := rfl
@[simp] theorem respond_pending (e : Bool) (d : RspData) : (respond s e d).pending = s.pending := rfl
@[simp] theorem respond_responses (e : Bool) (d : RspData) : (respond s e d).responses = s.responses ++ [⟨e, d⟩] := rfl

/-! ### respond (0, 0x0000) (R59) -/

@[simp] theorem respondDone_g0 : (respondDone s).g0 = s.g0 := rfl
@[simp] theorem respondDone_g1 : (respondDone s).g1 = s.g1 := rfl
@[simp] theorem respondDone_n8 : (respondDone s).n8 = s.n8 := rfl
@[simp] theorem respondDone_policy : (respondDone s).policy = s.policy := rfl
@[simp] theorem respondDone_front : (respondDone s).front = s.front := rfl
@[simp] theorem respondDone_fault : (respondDone s).fault = s.fault := rfl
@[simp] theorem respondDone_cause : (respondDone s).cause = s.cause := rfl
@[simp] theorem respondDone_ph : (respondDone s).ph = s.ph := rfl
@[simp] theorem respondDone_cy : (respondDone s).cy = s.cy := rfl
@[simp] theorem respondDone_cx : (respondDone s).cx = s.cx := rfl
@[simp] theorem respondDone_k : (respondDone s).k = s.k := rfl
@[simp] theorem respondDone_cnt : (respondDone s).cnt = s.cnt := rfl
@[simp] theorem respondDone_alive : (respondDone s).alive = s.alive := rfl
@[simp] theorem respondDone_resets : (respondDone s).resets = s.resets := rfl
@[simp] theorem respondDone_pending : (respondDone s).pending = s.pending := rfl
@[simp] theorem respondDone_responses : (respondDone s).responses = s.responses ++ [⟨false, 0#16⟩] := rfl

/-! ### raise Fault(c) (R134) -/

@[simp] theorem raiseFault_g0 (c : Cause) : (raiseFault s c).g0 = s.g0 := rfl
@[simp] theorem raiseFault_g1 (c : Cause) : (raiseFault s c).g1 = s.g1 := rfl
@[simp] theorem raiseFault_n8 (c : Cause) : (raiseFault s c).n8 = s.n8 := rfl
@[simp] theorem raiseFault_policy (c : Cause) : (raiseFault s c).policy = s.policy := rfl
@[simp] theorem raiseFault_front (c : Cause) : (raiseFault s c).front = s.front := rfl
@[simp] theorem raiseFault_fault (c : Cause) : (raiseFault s c).fault = true := rfl
@[simp] theorem raiseFault_cause (c : Cause) : (raiseFault s c).cause = c.code := rfl
@[simp] theorem raiseFault_ph (c : Cause) : (raiseFault s c).ph = .faulted := rfl
@[simp] theorem raiseFault_cy (c : Cause) : (raiseFault s c).cy = s.cy := rfl
@[simp] theorem raiseFault_cx (c : Cause) : (raiseFault s c).cx = s.cx := rfl
@[simp] theorem raiseFault_k (c : Cause) : (raiseFault s c).k = s.k := rfl
@[simp] theorem raiseFault_cnt (c : Cause) : (raiseFault s c).cnt = s.cnt := rfl
@[simp] theorem raiseFault_alive (c : Cause) : (raiseFault s c).alive = s.alive := rfl
@[simp] theorem raiseFault_resets (c : Cause) : (raiseFault s c).resets = s.resets := rfl
@[simp] theorem raiseFault_pending (c : Cause) : (raiseFault s c).pending = s.pending := rfl
@[simp] theorem raiseFault_responses (c : Cause) : (raiseFault s c).responses = s.responses ++ [⟨true, zext16 c.code⟩] := rfl

/-! ### reset (R151) -/

@[simp] theorem takeReset_g0 : (takeReset s).g0 = [] := rfl
@[simp] theorem takeReset_g1 : (takeReset s).g1 = [] := rfl
@[simp] theorem takeReset_n8 : (takeReset s).n8 = 0#4 := rfl
@[simp] theorem takeReset_policy : (takeReset s).policy = .clamped := rfl
@[simp] theorem takeReset_front : (takeReset s).front = false := rfl
@[simp] theorem takeReset_fault : (takeReset s).fault = false := rfl
@[simp] theorem takeReset_cause : (takeReset s).cause = 0#3 := rfl
@[simp] theorem takeReset_ph : (takeReset s).ph = .idle := rfl
@[simp] theorem takeReset_cy : (takeReset s).cy = 0#6 := rfl
@[simp] theorem takeReset_cx : (takeReset s).cx = 0#6 := rfl
@[simp] theorem takeReset_k : (takeReset s).k = 0#3 := rfl
@[simp] theorem takeReset_cnt : (takeReset s).cnt = 0#4 := rfl
@[simp] theorem takeReset_alive : (takeReset s).alive = false := rfl
@[simp] theorem takeReset_resets : (takeReset s).resets = s.resets + 1 := rfl
@[simp] theorem takeReset_pending : (takeReset s).pending = s.pending := rfl
@[simp] theorem takeReset_responses : (takeReset s).responses = s.responses := rfl

/-! ### MemWrite (R8) -/

@[simp] theorem writeByte_n8 (b : Bank) (i : Idx) (v : Byte) : (writeByte s b i v).n8 = s.n8 := by cases b <;> rfl
@[simp] theorem writeByte_policy (b : Bank) (i : Idx) (v : Byte) : (writeByte s b i v).policy = s.policy := by cases b <;> rfl
@[simp] theorem writeByte_front (b : Bank) (i : Idx) (v : Byte) : (writeByte s b i v).front = s.front := by cases b <;> rfl
@[simp] theorem writeByte_fault (b : Bank) (i : Idx) (v : Byte) : (writeByte s b i v).fault = s.fault := by cases b <;> rfl
@[simp] theorem writeByte_cause (b : Bank) (i : Idx) (v : Byte) : (writeByte s b i v).cause = s.cause := by cases b <;> rfl
@[simp] theorem writeByte_ph (b : Bank) (i : Idx) (v : Byte) : (writeByte s b i v).ph = s.ph := by cases b <;> rfl
@[simp] theorem writeByte_cy (b : Bank) (i : Idx) (v : Byte) : (writeByte s b i v).cy = s.cy := by cases b <;> rfl
@[simp] theorem writeByte_cx (b : Bank) (i : Idx) (v : Byte) : (writeByte s b i v).cx = s.cx := by cases b <;> rfl
@[simp] theorem writeByte_k (b : Bank) (i : Idx) (v : Byte) : (writeByte s b i v).k = s.k := by cases b <;> rfl
@[simp] theorem writeByte_cnt (b : Bank) (i : Idx) (v : Byte) : (writeByte s b i v).cnt = s.cnt := by cases b <;> rfl
@[simp] theorem writeByte_alive (b : Bank) (i : Idx) (v : Byte) : (writeByte s b i v).alive = s.alive := by cases b <;> rfl
@[simp] theorem writeByte_resets (b : Bank) (i : Idx) (v : Byte) : (writeByte s b i v).resets = s.resets := by cases b <;> rfl
@[simp] theorem writeByte_pending (b : Bank) (i : Idx) (v : Byte) : (writeByte s b i v).pending = s.pending := by cases b <;> rfl
@[simp] theorem writeByte_responses (b : Bank) (i : Idx) (v : Byte) : (writeByte s b i v).responses = s.responses := by cases b <;> rfl

/-! ### cell_set (R74) -/

@[simp] theorem setCell_n8 (b : Bank) (x y n : Nat) (v : Bool) : (setCell s b x y n v).n8 = s.n8 := by simp [setCell]
@[simp] theorem setCell_policy (b : Bank) (x y n : Nat) (v : Bool) : (setCell s b x y n v).policy = s.policy := by simp [setCell]
@[simp] theorem setCell_front (b : Bank) (x y n : Nat) (v : Bool) : (setCell s b x y n v).front = s.front := by simp [setCell]
@[simp] theorem setCell_fault (b : Bank) (x y n : Nat) (v : Bool) : (setCell s b x y n v).fault = s.fault := by simp [setCell]
@[simp] theorem setCell_cause (b : Bank) (x y n : Nat) (v : Bool) : (setCell s b x y n v).cause = s.cause := by simp [setCell]
@[simp] theorem setCell_ph (b : Bank) (x y n : Nat) (v : Bool) : (setCell s b x y n v).ph = s.ph := by simp [setCell]
@[simp] theorem setCell_cy (b : Bank) (x y n : Nat) (v : Bool) : (setCell s b x y n v).cy = s.cy := by simp [setCell]
@[simp] theorem setCell_cx (b : Bank) (x y n : Nat) (v : Bool) : (setCell s b x y n v).cx = s.cx := by simp [setCell]
@[simp] theorem setCell_k (b : Bank) (x y n : Nat) (v : Bool) : (setCell s b x y n v).k = s.k := by simp [setCell]
@[simp] theorem setCell_cnt (b : Bank) (x y n : Nat) (v : Bool) : (setCell s b x y n v).cnt = s.cnt := by simp [setCell]
@[simp] theorem setCell_alive (b : Bank) (x y n : Nat) (v : Bool) : (setCell s b x y n v).alive = s.alive := by simp [setCell]
@[simp] theorem setCell_resets (b : Bank) (x y n : Nat) (v : Bool) : (setCell s b x y n v).resets = s.resets := by simp [setCell]
@[simp] theorem setCell_pending (b : Bank) (x y n : Nat) (v : Bool) : (setCell s b x y n v).pending = s.pending := by simp [setCell]
@[simp] theorem setCell_responses (b : Bank) (x y n : Nat) (v : Bool) : (setCell s b x y n v).responses = s.responses := by simp [setCell]

/-! ### CFG's write (R121) -/

@[simp] theorem setConfig_g0 (p : Policy) (m : BitVec 4) : (setConfig s p m).g0 = s.g0 := rfl
@[simp] theorem setConfig_g1 (p : Policy) (m : BitVec 4) : (setConfig s p m).g1 = s.g1 := rfl
@[simp] theorem setConfig_n8 (p : Policy) (m : BitVec 4) : (setConfig s p m).n8 = m := rfl
@[simp] theorem setConfig_policy (p : Policy) (m : BitVec 4) : (setConfig s p m).policy = p := rfl
@[simp] theorem setConfig_front (p : Policy) (m : BitVec 4) : (setConfig s p m).front = s.front := rfl
@[simp] theorem setConfig_fault (p : Policy) (m : BitVec 4) : (setConfig s p m).fault = s.fault := rfl
@[simp] theorem setConfig_cause (p : Policy) (m : BitVec 4) : (setConfig s p m).cause = s.cause := rfl
@[simp] theorem setConfig_ph (p : Policy) (m : BitVec 4) : (setConfig s p m).ph = s.ph := rfl
@[simp] theorem setConfig_cy (p : Policy) (m : BitVec 4) : (setConfig s p m).cy = s.cy := rfl
@[simp] theorem setConfig_cx (p : Policy) (m : BitVec 4) : (setConfig s p m).cx = s.cx := rfl
@[simp] theorem setConfig_k (p : Policy) (m : BitVec 4) : (setConfig s p m).k = s.k := rfl
@[simp] theorem setConfig_cnt (p : Policy) (m : BitVec 4) : (setConfig s p m).cnt = s.cnt := rfl
@[simp] theorem setConfig_alive (p : Policy) (m : BitVec 4) : (setConfig s p m).alive = s.alive := rfl
@[simp] theorem setConfig_resets (p : Policy) (m : BitVec 4) : (setConfig s p m).resets = s.resets := rfl
@[simp] theorem setConfig_pending (p : Policy) (m : BitVec 4) : (setConfig s p m).pending = s.pending := rfl
@[simp] theorem setConfig_responses (p : Policy) (m : BitVec 4) : (setConfig s p m).responses = s.responses := rfl

/-! ### EVOLVE's accepting transition (R100) -/

@[simp] theorem startEvolve_g0 : (startEvolve s).g0 = s.g0 := rfl
@[simp] theorem startEvolve_g1 : (startEvolve s).g1 = s.g1 := rfl
@[simp] theorem startEvolve_n8 : (startEvolve s).n8 = s.n8 := rfl
@[simp] theorem startEvolve_policy : (startEvolve s).policy = s.policy := rfl
@[simp] theorem startEvolve_front : (startEvolve s).front = s.front := rfl
@[simp] theorem startEvolve_fault : (startEvolve s).fault = s.fault := rfl
@[simp] theorem startEvolve_cause : (startEvolve s).cause = s.cause := rfl
@[simp] theorem startEvolve_ph : (startEvolve s).ph = .center := rfl
@[simp] theorem startEvolve_cy : (startEvolve s).cy = 0#6 := rfl
@[simp] theorem startEvolve_cx : (startEvolve s).cx = 0#6 := rfl
@[simp] theorem startEvolve_k : (startEvolve s).k = s.k := rfl
@[simp] theorem startEvolve_cnt : (startEvolve s).cnt = s.cnt := rfl
@[simp] theorem startEvolve_alive : (startEvolve s).alive = s.alive := rfl
@[simp] theorem startEvolve_resets : (startEvolve s).resets = s.resets := rfl
@[simp] theorem startEvolve_pending : (startEvolve s).pending = s.pending := rfl
@[simp] theorem startEvolve_responses : (startEvolve s).responses = s.responses := rfl

/-! ### CENTER (R100) -/

@[simp] theorem seqCenter_g0 : (seqCenter s).g0 = s.g0 := rfl
@[simp] theorem seqCenter_g1 : (seqCenter s).g1 = s.g1 := rfl
@[simp] theorem seqCenter_n8 : (seqCenter s).n8 = s.n8 := rfl
@[simp] theorem seqCenter_policy : (seqCenter s).policy = s.policy := rfl
@[simp] theorem seqCenter_front : (seqCenter s).front = s.front := rfl
@[simp] theorem seqCenter_fault : (seqCenter s).fault = s.fault := rfl
@[simp] theorem seqCenter_cause : (seqCenter s).cause = s.cause := rfl
@[simp] theorem seqCenter_ph : (seqCenter s).ph = .neigh := rfl
@[simp] theorem seqCenter_cy : (seqCenter s).cy = s.cy := rfl
@[simp] theorem seqCenter_cx : (seqCenter s).cx = s.cx := rfl
@[simp] theorem seqCenter_k : (seqCenter s).k = 0#3 := rfl
@[simp] theorem seqCenter_cnt : (seqCenter s).cnt = 0#4 := rfl
@[simp] theorem seqCenter_alive : (seqCenter s).alive = getCell s s.front s.cx.toNat s.cy.toNat (sideOf s.n8) := rfl
@[simp] theorem seqCenter_resets : (seqCenter s).resets = s.resets := rfl
@[simp] theorem seqCenter_pending : (seqCenter s).pending = s.pending := rfl
@[simp] theorem seqCenter_responses : (seqCenter s).responses = s.responses := rfl

/-! ### NEIGH (R100) -/

@[simp] theorem seqNeigh_g0 : (seqNeigh s).g0 = s.g0 := by
  unfold seqNeigh; dsimp only; split <;> rfl
@[simp] theorem seqNeigh_g1 : (seqNeigh s).g1 = s.g1 := by
  unfold seqNeigh; dsimp only; split <;> rfl
@[simp] theorem seqNeigh_n8 : (seqNeigh s).n8 = s.n8 := by
  unfold seqNeigh; dsimp only; split <;> rfl
@[simp] theorem seqNeigh_policy : (seqNeigh s).policy = s.policy := by
  unfold seqNeigh; dsimp only; split <;> rfl
@[simp] theorem seqNeigh_front : (seqNeigh s).front = s.front := by
  unfold seqNeigh; dsimp only; split <;> rfl
@[simp] theorem seqNeigh_fault : (seqNeigh s).fault = s.fault := by
  unfold seqNeigh; dsimp only; split <;> rfl
@[simp] theorem seqNeigh_cause : (seqNeigh s).cause = s.cause := by
  unfold seqNeigh; dsimp only; split <;> rfl
@[simp] theorem seqNeigh_ph : (seqNeigh s).ph = (if s.k.toNat < 7 then s.ph else .write) := by
  unfold seqNeigh; dsimp only; split <;> rfl
@[simp] theorem seqNeigh_cy : (seqNeigh s).cy = s.cy := by
  unfold seqNeigh; dsimp only; split <;> rfl
@[simp] theorem seqNeigh_cx : (seqNeigh s).cx = s.cx := by
  unfold seqNeigh; dsimp only; split <;> rfl
@[simp] theorem seqNeigh_k : (seqNeigh s).k = (if s.k.toNat < 7 then s.k + 1#3 else s.k) := by
  unfold seqNeigh; dsimp only; split <;> rfl
@[simp] theorem seqNeigh_cnt : (seqNeigh s).cnt = s.cnt + BitVec.ofNat 4
      (neighbourValue (readByte s s.front) s.cx.toNat s.cy.toNat s.k.toNat (sideOf s.n8) s.policy) := by
  unfold seqNeigh; dsimp only; split <;> rfl
@[simp] theorem seqNeigh_alive : (seqNeigh s).alive = s.alive := by
  unfold seqNeigh; dsimp only; split <;> rfl
@[simp] theorem seqNeigh_resets : (seqNeigh s).resets = s.resets := by
  unfold seqNeigh; dsimp only; split <;> rfl
@[simp] theorem seqNeigh_pending : (seqNeigh s).pending = s.pending := by
  unfold seqNeigh; dsimp only; split <;> rfl
@[simp] theorem seqNeigh_responses : (seqNeigh s).responses = s.responses := by
  unfold seqNeigh; dsimp only; split <;> rfl

/-! ### WRITE, the move (R100) -/

@[simp] theorem seqAdvance_g0 : (seqAdvance s).g0 = s.g0 := by
  unfold seqAdvance; split <;> [rfl; (split <;> rfl)]
@[simp] theorem seqAdvance_g1 : (seqAdvance s).g1 = s.g1 := by
  unfold seqAdvance; split <;> [rfl; (split <;> rfl)]
@[simp] theorem seqAdvance_n8 : (seqAdvance s).n8 = s.n8 := by
  unfold seqAdvance; split <;> [rfl; (split <;> rfl)]
@[simp] theorem seqAdvance_policy : (seqAdvance s).policy = s.policy := by
  unfold seqAdvance; split <;> [rfl; (split <;> rfl)]
@[simp] theorem seqAdvance_front : (seqAdvance s).front = s.front := by
  unfold seqAdvance; split <;> [rfl; (split <;> rfl)]
@[simp] theorem seqAdvance_fault : (seqAdvance s).fault = s.fault := by
  unfold seqAdvance; split <;> [rfl; (split <;> rfl)]
@[simp] theorem seqAdvance_cause : (seqAdvance s).cause = s.cause := by
  unfold seqAdvance; split <;> [rfl; (split <;> rfl)]
@[simp] theorem seqAdvance_k : (seqAdvance s).k = s.k := by
  unfold seqAdvance; split <;> [rfl; (split <;> rfl)]
@[simp] theorem seqAdvance_cnt : (seqAdvance s).cnt = s.cnt := by
  unfold seqAdvance; split <;> [rfl; (split <;> rfl)]
@[simp] theorem seqAdvance_alive : (seqAdvance s).alive = s.alive := by
  unfold seqAdvance; split <;> [rfl; (split <;> rfl)]
@[simp] theorem seqAdvance_resets : (seqAdvance s).resets = s.resets := by
  unfold seqAdvance; split <;> [rfl; (split <;> rfl)]
@[simp] theorem seqAdvance_pending : (seqAdvance s).pending = s.pending := by
  unfold seqAdvance; split <;> [rfl; (split <;> rfl)]
@[simp] theorem seqAdvance_responses : (seqAdvance s).responses = s.responses := by
  unfold seqAdvance; split <;> [rfl; (split <;> rfl)]

/-! ### SWAP (R100) -/

@[simp] theorem seqSwap_g0 : (seqSwap s).g0 = s.g0 := rfl
@[simp] theorem seqSwap_g1 : (seqSwap s).g1 = s.g1 := rfl
@[simp] theorem seqSwap_n8 : (seqSwap s).n8 = s.n8 := rfl
@[simp] theorem seqSwap_policy : (seqSwap s).policy = s.policy := rfl
@[simp] theorem seqSwap_front : (seqSwap s).front = !s.front := rfl
@[simp] theorem seqSwap_fault : (seqSwap s).fault = s.fault := rfl
@[simp] theorem seqSwap_cause : (seqSwap s).cause = s.cause := rfl
@[simp] theorem seqSwap_ph : (seqSwap s).ph = .idle := rfl
@[simp] theorem seqSwap_cy : (seqSwap s).cy = s.cy := rfl
@[simp] theorem seqSwap_cx : (seqSwap s).cx = s.cx := rfl
@[simp] theorem seqSwap_k : (seqSwap s).k = s.k := rfl
@[simp] theorem seqSwap_cnt : (seqSwap s).cnt = s.cnt := rfl
@[simp] theorem seqSwap_alive : (seqSwap s).alive = s.alive := rfl
@[simp] theorem seqSwap_resets : (seqSwap s).resets = s.resets := rfl
@[simp] theorem seqSwap_pending : (seqSwap s).pending = s.pending := rfl
@[simp] theorem seqSwap_responses : (seqSwap s).responses = s.responses ++ [⟨false, 0#16⟩] := rfl

/-! ### The word presented now -/

@[simp] theorem presentNow_g0 (w : CmdWord) : (presentNow s w).g0 = s.g0 := rfl
@[simp] theorem presentNow_g1 (w : CmdWord) : (presentNow s w).g1 = s.g1 := rfl
@[simp] theorem presentNow_n8 (w : CmdWord) : (presentNow s w).n8 = s.n8 := rfl
@[simp] theorem presentNow_policy (w : CmdWord) : (presentNow s w).policy = s.policy := rfl
@[simp] theorem presentNow_front (w : CmdWord) : (presentNow s w).front = s.front := rfl
@[simp] theorem presentNow_fault (w : CmdWord) : (presentNow s w).fault = s.fault := rfl
@[simp] theorem presentNow_cause (w : CmdWord) : (presentNow s w).cause = s.cause := rfl
@[simp] theorem presentNow_ph (w : CmdWord) : (presentNow s w).ph = (if s.ph.busy then .idle else s.ph) := rfl
@[simp] theorem presentNow_cy (w : CmdWord) : (presentNow s w).cy = s.cy := rfl
@[simp] theorem presentNow_cx (w : CmdWord) : (presentNow s w).cx = s.cx := rfl
@[simp] theorem presentNow_k (w : CmdWord) : (presentNow s w).k = s.k := rfl
@[simp] theorem presentNow_cnt (w : CmdWord) : (presentNow s w).cnt = s.cnt := rfl
@[simp] theorem presentNow_alive (w : CmdWord) : (presentNow s w).alive = s.alive := rfl
@[simp] theorem presentNow_resets (w : CmdWord) : (presentNow s w).resets = s.resets := rfl
@[simp] theorem presentNow_pending (w : CmdWord) : (presentNow s w).pending = .cmd w :: s.pending := rfl
@[simp] theorem presentNow_responses (w : CmdWord) : (presentNow s w).responses = s.responses := rfl

/-! ### WRITE (R100) -/

@[simp] theorem seqWrite_n8 : (seqWrite s).n8 = s.n8 := by simp [seqWrite]
@[simp] theorem seqWrite_policy : (seqWrite s).policy = s.policy := by simp [seqWrite]
@[simp] theorem seqWrite_front : (seqWrite s).front = s.front := by simp [seqWrite]
@[simp] theorem seqWrite_fault : (seqWrite s).fault = s.fault := by simp [seqWrite]
@[simp] theorem seqWrite_cause : (seqWrite s).cause = s.cause := by simp [seqWrite]
@[simp] theorem seqWrite_k : (seqWrite s).k = s.k := by simp [seqWrite]
@[simp] theorem seqWrite_cnt : (seqWrite s).cnt = s.cnt := by simp [seqWrite]
@[simp] theorem seqWrite_alive : (seqWrite s).alive = s.alive := by simp [seqWrite]
@[simp] theorem seqWrite_resets : (seqWrite s).resets = s.resets := by simp [seqWrite]
@[simp] theorem seqWrite_pending : (seqWrite s).pending = s.pending := by simp [seqWrite]
@[simp] theorem seqWrite_responses : (seqWrite s).responses = s.responses := by simp [seqWrite]

end Sys2Proof.Machine
end

