-- ==== Sys2Proof/Laws/Memory.lean ====
section
/-! SUPPORT. The laws of one bank's listed bytes and of the byte accesses of the state: a read after a write to the same
place, a read elsewhere, and the canonical form (10_state.md R11, 20_memory.md R37, R39). -/

namespace Sys2Proof.Machine

/-! ### One bank -/

theorem Memory.find_put_same (m : Memory) (i : Nat) (v : Byte) : (m.put i v).find i = some v := by
  induction m with
  | nil => simp [Memory.put, Memory.find]
  | cons c m ih =>
    obtain ⟨a, u⟩ := c
    unfold Memory.put
    split
    · simp [Memory.find]
    · split
      · simp [Memory.find]
      · simp_all [Memory.find]

theorem Memory.find_put_other (m : Memory) (i j : Nat) (v : Byte) (h : j ≠ i) :
    (m.put i v).find j = m.find j := by
  induction m with
  | nil =>
    simp only [Memory.put, Memory.find, if_neg h, ite_self]
  | cons c m ih =>
    obtain ⟨a, u⟩ := c
    unfold Memory.put
    split
    · next e => subst e; simp [Memory.find, h]
    · split
      · next hlt =>
        simp only [Memory.find, if_neg h]
        split
        · rw [if_neg (by omega), if_pos (by omega)]
        · rfl
      · simp [Memory.find, ih]

theorem Memory.risesAbove_put (m : Memory) (lo i : Nat) (v : Byte) (hm : m.risesAbove lo = true) (hlo : lo < i)
    (hi : i < Config.cap) : (m.put i v).risesAbove lo = true := by
  induction m generalizing lo with
  | nil => simp [Memory.put, Memory.risesAbove, hlo, hi]
  | cons c m ih =>
    obtain ⟨a, u⟩ := c
    simp only [Memory.risesAbove, Bool.and_eq_true, decide_eq_true_eq] at hm
    unfold Memory.put
    split
    · next e => subst e; simp [Memory.risesAbove, hlo, hi, hm.2]
    · split
      · next hlt => simp [Memory.risesAbove, hlo, hi, hlt, hm.1.2, hm.2]
      · next h1 h2 => simp [Memory.risesAbove, hm.1.1, hm.1.2, ih a hm.2 (by omega)]

/-- Writing a byte of a bank keeps the canonical form. -/
theorem Memory.wf_put (m : Memory) (i : Nat) (v : Byte) (hm : m.wf = true) (hi : i < Config.cap) :
    (m.put i v).wf = true := by
  cases m with
  | nil => simp [Memory.put, Memory.wf, Memory.risesAbove, hi]
  | cons c m =>
    obtain ⟨a, u⟩ := c
    simp only [Memory.wf, Bool.and_eq_true, decide_eq_true_eq] at hm
    unfold Memory.put
    split
    · next e => subst e; simp [Memory.wf, hi, hm.2]
    · split
      · next hlt => simp [Memory.wf, Memory.risesAbove, hi, hlt, hm.1, hm.2]
      · next h1 h2 => simp [Memory.wf, hm.1, Memory.risesAbove_put m a i v hm.2 (by omega) hi]

/-- The banks after reset are canonical. -/
theorem reset_banks_wf : State.reset.g0.wf = true ∧ State.reset.g1.wf = true := ⟨rfl, rfl⟩

theorem Idx.toNat_lt_cap (i : Idx) : i.toNat < Config.cap := i.isLt

/-! ### Bytes of the state -/

/-- `readByte` reads only the bank and the number of resets. -/
theorem readByte_congr (s t : State) (b : Bank) (hb : bank t b = bank s b) (hr : t.resets = s.resets) :
    readByte t b = readByte s b := by
  funext i; simp [readByte, unwritten, hb, hr]

theorem bank_writeByte_same (s : State) (b : Bank) (i : Idx) (v : Byte) :
    bank (writeByte s b i v) b = (bank s b).put i.toNat v := by cases b <;> rfl

theorem bank_writeByte_other (s : State) (b c : Bank) (i : Idx) (v : Byte) (h : c ≠ b) :
    bank (writeByte s b i v) c = bank s c := by cases b <;> cases c <;> first | rfl | exact absurd rfl h

@[simp] theorem readByte_writeByte_same (s : State) (b : Bank) (i : Idx) (v : Byte) :
    readByte (writeByte s b i v) b i = v := by
  simp [readByte, bank_writeByte_same, Memory.find_put_same]

theorem readByte_writeByte_other_index (s : State) (b : Bank) (i j : Idx) (v : Byte) (h : j ≠ i) :
    readByte (writeByte s b i v) b j = readByte s b j := by
  have : j.toNat ≠ i.toNat := fun e => h (BitVec.eq_of_toNat_eq e)
  simp [readByte, bank_writeByte_same, Memory.find_put_other _ _ _ _ this, unwritten]

theorem readByte_writeByte_other_bank (s : State) (b c : Bank) (i : Idx) (v : Byte) (h : c ≠ b) :
    readByte (writeByte s b i v) c = readByte s c :=
  readByte_congr _ _ _ (bank_writeByte_other s b c i v h) (by simp)

/-- What a byte reads as after a write, in one equation (R37, R39). -/
theorem readByte_writeByte (s : State) (b c : Bank) (i j : Idx) (v : Byte) :
    readByte (writeByte s b i v) c j = if c = b ∧ j = i then v else readByte s c j := by
  by_cases hc : c = b
  · subst hc
    by_cases hj : j = i
    · subst hj; simp
    · simp [readByte_writeByte_other_index s c i j v hj, hj]
  · simp [readByte_writeByte_other_bank s b c i v hc, hc]

theorem bank_wf_writeByte (s : State) (b c : Bank) (i : Idx) (v : Byte) (h : (bank s c).wf = true) :
    (bank (writeByte s b i v) c).wf = true := by
  by_cases hc : c = b
  · subst hc; rw [bank_writeByte_same]; exact Memory.wf_put _ _ _ h (Idx.toNat_lt_cap i)
  · rw [bank_writeByte_other s b c i v hc]; exact h

/-- A byte write keeps both banks canonical. -/
theorem writeByte_banks_wf (s : State) (b : Bank) (i : Idx) (v : Byte) (h0 : s.g0.wf = true) (h1 : s.g1.wf = true) :
    (writeByte s b i v).g0.wf = true ∧ (writeByte s b i v).g1.wf = true :=
  ⟨bank_wf_writeByte s b false i v h0, bank_wf_writeByte s b true i v h1⟩

/-- Delivering a response changes no byte. -/
@[simp] theorem readByte_respond (s : State) (e : Bool) (d : RspData) : readByte (respond s e d) = readByte s := rfl

@[simp] theorem readByte_respondDone (s : State) : readByte (respondDone s) = readByte s := rfl

/-- Taking a fault changes no byte (R134). -/
@[simp] theorem readByte_raiseFault (s : State) (c : Cause) : readByte (raiseFault s c) = readByte s := rfl

end Sys2Proof.Machine
end

