-- ==== Sys2Proof/Laws/Codec.lean ====
section
/-! SUPPORT. The codec's functions in the terms proofs use: bits by position, indices as exact numbers, and what
cell_set does to the bytes and cells of the state (40_codec.md R70 to R74, R80). -/

namespace Sys2Proof.Machine

/-- cell_get is bit 7 - (x mod 8) of the cell's byte (R31, R73). -/
theorem cellGet_eq_bit (rd : Idx → Byte) (x y n : Nat) :
    cellGet rd x y n = (rd (byteIndex x y n)).getLsbD (7 - x % 8) := by
  simp [cellGet, bitPos, bitIndex]

/-- mask(x) has exactly the bit 7 - (x mod 8) set (R71). -/
theorem cellMask_bit (x j : Nat) : (cellMask x).getLsbD j = decide (j = 7 - x % 8) := by
  have hx : x % 8 < 8 := Nat.mod_lt _ (by decide)
  unfold cellMask bitIndex
  generalize x % 8 = b at hx
  rw [BitVec.getLsbD_ushiftRight]
  by_cases hj : j < 8
  · interval_cases b <;> interval_cases j <;> decide
  · rw [BitVec.getLsbD_of_ge _ _ (by omega)]
    exact (decide_eq_false (by omega)).symm

/-- The byte cell_set stores: the cell's bit is v, every other bit is the old one (R74). -/
theorem cellByte_bit (old : Byte) (x j : Nat) (v : Bool) (hj : j < 8) :
    (cellByte old x v).getLsbD j = if j = 7 - x % 8 then v else old.getLsbD j := by
  cases v
  · rw [cellByte, if_neg Bool.false_ne_true, BitVec.getLsbD_and, BitVec.getLsbD_not, cellMask_bit]
    by_cases h : j = 7 - x % 8 <;> simp [h, hj]
  · rw [cellByte, if_pos rfl, BitVec.getLsbD_or, cellMask_bit]
    by_cases h : j = 7 - x % 8 <;> simp [h]

/-- What the codec's domain says, as inequalities. -/
theorem codecDefined_iff (n8 : BitVec 4) (x y : Nat) :
    codecDefined n8 x y = true ↔ 1 ≤ n8.toNat ∧ n8.toNat ≤ 8 ∧ x < 8 * n8.toNat ∧ y < 8 * n8.toNat := by
  unfold codecDefined inRange sideOf
  simp only [Bool.and_eq_true, decide_eq_true_eq, and_assoc]

/-- byte_index is exact: the 9-bit result never wraps on the codec's domain (R72, R80). -/
theorem byteIndex_toNat (m x y : Nat) (hm : m ≤ 8) (hx : x < 8 * m) (hy : y < 8 * m) :
    (byteIndex x y (8 * m)).toNat = y * m + x / 8 := by
  have h : y * m + x / 8 < 512 := by
    have : y * m ≤ (8 * m - 1) * m := Nat.mul_le_mul_right _ (by omega)
    have : (8 * m - 1) * m + m ≤ 512 := by interval_cases m <;> simp
    omega
  simp only [byteIndex, BitVec.toNat_ofNat, Nat.mul_div_cancel_left m (by decide : 0 < 8)]
  exact Nat.mod_eq_of_lt h

/-- What a byte reads as after cell_set (R74). -/
theorem readByte_setCell (s : State) (b c : Bank) (x y n : Nat) (v : Bool) (j : Idx) :
    readByte (setCell s b x y n v) c j =
      if c = b ∧ j = byteIndex x y n then cellByte (readByte s b (byteIndex x y n)) x v else readByte s c j := by
  rw [setCell, readByte_writeByte]

/-- cell_set in one bank changes no byte of the other. -/
theorem readByte_setCell_other_bank (s : State) (b c : Bank) (x y n : Nat) (v : Bool) (h : c ≠ b) :
    readByte (setCell s b x y n v) c = readByte s c := by
  funext j; simp [readByte_setCell, h]

theorem setCell_banks_wf (s : State) (b : Bank) (x y n : Nat) (v : Bool) (h0 : s.g0.wf = true) (h1 : s.g1.wf = true) :
    (setCell s b x y n v).g0.wf = true ∧ (setCell s b x y n v).g1.wf = true :=
  writeByte_banks_wf _ _ _ _ h0 h1

end Sys2Proof.Machine
end

