-- ==== Sys2Proof/Laws/Encode.lean ====
section
/-! SUPPORT. The words of the formats and the fields of a word as exact numbers (30_encoding.md R51 to R54, R56), so that
facts about encodings become linear arithmetic. -/

namespace Sys2Proof

/-- `{a, b}` is a × 2^m + b (R7). -/
theorem append_toNat {n m : Nat} (a : BitVec n) (b : BitVec m) : (a ++ b).toNat = a.toNat * 2 ^ m + b.toNat := by
  rw [BitVec.toNat_append, ← Nat.shiftLeft_add_eq_or_of_lt b.isLt, Nat.shiftLeft_eq]

theorem formatP_toNat (op : BitVec 4) (v : Bool) (y x : Coord) :
    (formatP op v y x).toNat = op.toNat * 2 ^ 20 + v.toNat * 2 ^ 12 + y.toNat * 2 ^ 6 + x.toNat := by
  simp only [formatP, append_toNat, BitVec.toNat_ofBool, BitVec.toNat_ofNat]; omega

theorem formatB_toNat (op : BitVec 4) (idx : Idx) (data : Byte) :
    (formatB op idx data).toNat = op.toNat * 2 ^ 20 + idx.toNat * 2 ^ 8 + data.toNat := by
  simp only [formatB, append_toNat, BitVec.toNat_ofNat]; omega

theorem formatC_toNat (op : BitVec 4) (policy : Policy) (n8 : BitVec 4) :
    (formatC op policy n8).toNat = op.toNat * 2 ^ 20 + policy.toBit.toNat * 2 ^ 4 + n8.toNat := by
  simp only [formatC, append_toNat, BitVec.toNat_ofBool, BitVec.toNat_ofNat]; omega

theorem formatZ_toNat (op : BitVec 4) : (formatZ op).toNat = op.toNat * 2 ^ 20 := by
  simp only [formatZ, append_toNat, BitVec.toNat_ofNat]; omega

/-- A field of a word as a number: `w[start + len - 1 : start]` (R7). -/
theorem extract_toNat (w : CmdWord) (start len : Nat) :
    (w.extractLsb' start len).toNat = w.toNat / 2 ^ start % 2 ^ len := by
  rw [BitVec.extractLsb'_toNat, Nat.shiftRight_eq_div_pow]

theorem fieldOp_toNat (w : CmdWord) : (fieldOp w).toNat = w.toNat / 2 ^ 20 % 16 := extract_toNat w 20 4
theorem fieldRz_toNat (w : CmdWord) : (fieldRz w).toNat = w.toNat / 2 ^ 17 % 8 := extract_toNat w 17 3
theorem fieldPz_toNat (w : CmdWord) : (fieldPz w).toNat = w.toNat / 2 ^ 13 % 16 := extract_toNat w 13 4
theorem fieldY_toNat (w : CmdWord) : (fieldY w).toNat = w.toNat / 2 ^ 6 % 64 := extract_toNat w 6 6
theorem fieldX_toNat (w : CmdWord) : (fieldX w).toNat = w.toNat % 64 := by
  rw [← Nat.div_one w.toNat]; exact extract_toNat w 0 6
theorem fieldIdx_toNat (w : CmdWord) : (fieldIdx w).toNat = w.toNat / 2 ^ 8 % 512 := extract_toNat w 8 9
theorem fieldData_toNat (w : CmdWord) : (fieldData w).toNat = w.toNat % 256 := by
  rw [← Nat.div_one w.toNat]; exact extract_toNat w 0 8
theorem fieldCz_toNat (w : CmdWord) : (fieldCz w).toNat = w.toNat / 2 ^ 5 % 4096 := extract_toNat w 5 12
theorem fieldN8_toNat (w : CmdWord) : (fieldN8 w).toNat = w.toNat % 16 := by
  rw [← Nat.div_one w.toNat]; exact extract_toNat w 0 4
theorem fieldZz_toNat (w : CmdWord) : (fieldZz w).toNat = w.toNat % 2 ^ 17 := by
  rw [← Nat.div_one w.toNat]; exact extract_toNat w 0 17

/-- v as a number (R56). -/
theorem fieldV_toNat (w : CmdWord) : (fieldV w).toNat = w.toNat / 2 ^ 12 % 2 := by
  simp [fieldV, BitVec.getLsbD, Nat.toNat_testBit]

/-- A policy is the policy of its bit (R13). -/
@[simp] theorem Policy.ofBit_toBit (p : Policy) : Policy.ofBit p.toBit = p := by cases p <;> rfl

@[simp] theorem Policy.toBit_ofBit (b : Bool) : (Policy.ofBit b).toBit = b := by cases b <;> rfl

/-- The policy bit of a word as a number (R56). -/
theorem fieldPolicy_toNat (w : CmdWord) : (fieldPolicy w).toBit.toNat = w.toNat / 2 ^ 4 % 2 := by
  simp [fieldPolicy, BitVec.getLsbD, Nat.toNat_testBit]

end Sys2Proof
end

