-- ==== Sys2Proof/Laws/Step.lean ====
section
/-! SUPPORT. What each shared operation, each command and a step can do, said once: if it answers next t, then one of
these cases holds. -/

namespace Sys2Proof.Machine

/-- What `serve` can do: refuse in the fault state, or run the body (R135). -/
theorem serve_cases {s t : State} {body : State → Host.Outcome State Fault Refusal} (h : serve s body = .next t) :
    (s.fault = true ∧ t = respond s true (zext16 s.cause)) ∨ (s.fault = false ∧ body s = .next t) := by
  unfold serve at h
  split at h
  · next hf => exact .inl ⟨hf, by injection h with h; exact h.symm⟩
  · next hf => exact .inr ⟨by simpa using hf, h⟩

/-- What RDPX and WRPX's shared checks can do (R76, R77). -/
theorem withCell_cases {x y : Coord} {s t : State} {body : State → State} (h : withCell x y s body = .next t) :
    (s.n8 = 0#4 ∧ t = raiseFault s .nocfg) ∨
    (s.n8 ≠ 0#4 ∧ inRange x.toNat y.toNat (sideOf s.n8) = false ∧ t = raiseFault s .coord) ∨
    (codecDefined s.n8 x.toNat y.toNat = true ∧ t = body s) := by
  unfold withCell at h
  split at h
  · next h0 => exact .inl ⟨h0, by injection h with h; exact h.symm⟩
  · next h0 =>
    split at h
    · next h1 => exact .inr (.inl ⟨h0, h1, by injection h with h; exact h.symm⟩)
    · split at h
      · next h2 => exact .inr (.inr ⟨h2, by injection h with h; exact h.symm⟩)
      · exact absurd h (by simp)

/-- What a micro-step at the cell (CX, CY) can do. -/
theorem atCell_cases {s t : State} {body : State → State} (h : atCell s body = .next t) :
    codecDefined s.n8 s.cx.toNat s.cy.toNat = true ∧ t = body s := by
  unfold atCell at h
  split at h
  · next hd => exact ⟨hd, by injection h with h; exact h.symm⟩
  · exact absurd h (by simp)

/-- What a micro-step can do: one row of R100, or nothing in IDLE and FAULTED. -/
theorem seqStep_cases {s t : State} (h : seqStep s = .next t) :
    (s.ph = .center ∧ codecDefined s.n8 s.cx.toNat s.cy.toNat = true ∧ t = seqCenter s) ∨
    (s.ph = .neigh ∧ codecDefined s.n8 s.cx.toNat s.cy.toNat = true ∧ t = seqNeigh s) ∨
    (s.ph = .write ∧ codecDefined s.n8 s.cx.toNat s.cy.toNat = true ∧ t = seqWrite s) ∨
    (s.ph = .swap ∧ t = seqSwap s) ∨
    (s.ph.busy = false ∧ t = s) := by
  unfold seqStep at h
  split at h
  · next e => exact .inl ⟨e, atCell_cases h⟩
  · next e => exact .inr (.inl ⟨e, atCell_cases h⟩)
  · next e => exact .inr (.inr (.inl ⟨e, atCell_cases h⟩))
  · next e => exact .inr (.inr (.inr (.inl ⟨e, by injection h with h; exact h.symm⟩)))
  · next e => exact .inr (.inr (.inr (.inr ⟨by rw [e]; rfl, by injection h with h; exact h.symm⟩)))
  · next e => exact .inr (.inr (.inr (.inr ⟨by rw [e]; rfl, by injection h with h; exact h.symm⟩)))

/-! ### The sequencer does not look at what the host presents -/

theorem seqNeigh_setPending (s : State) (q : List HostAction) :
    seqNeigh { s with pending := q } = { seqNeigh s with pending := q } := by
  unfold seqNeigh; dsimp only; split <;> rfl

theorem setCell_setPending (s : State) (q : List HostAction) (b : Bank) (x y n : Nat) (v : Bool) :
    setCell { s with pending := q } b x y n v = { setCell s b x y n v with pending := q } := by
  cases b <;> rfl

theorem seqAdvance_setPending (s : State) (q : List HostAction) :
    seqAdvance { s with pending := q } = { seqAdvance s with pending := q } := by
  unfold seqAdvance; dsimp only; split
  · rfl
  · split <;> rfl

theorem seqWrite_setPending (s : State) (q : List HostAction) :
    seqWrite { s with pending := q } = { seqWrite s with pending := q } := by
  unfold seqWrite; dsimp only; rw [setCell_setPending, seqAdvance_setPending]

/-- A micro-step with other actions presented is the same micro-step, with those actions still presented (R60, R161). -/
theorem seqStep_setPending {s t : State} (q : List HostAction) (h : seqStep s = .next t) :
    seqStep { s with pending := q } = .next { t with pending := q } := by
  rcases seqStep_cases h with ⟨hp, hd, rfl⟩ | ⟨hp, hd, rfl⟩ | ⟨hp, hd, rfl⟩ | ⟨hp, rfl⟩ | ⟨hp, rfl⟩
  · simp only [seqStep, hp, atCell, hd, if_true]; rfl
  · simp only [seqStep, hp, atCell, hd, if_true, ← seqNeigh_setPending]
  · simp only [seqStep, hp, atCell, hd, if_true, ← seqWrite_setPending]
  · simp only [seqStep, hp]; rfl
  · unfold seqStep; cases hq : t.ph <;> simp_all [Phase.busy]

/-- A micro-step leaves the host's actions alone. -/
theorem seqStep_pending {s t : State} (h : seqStep s = .next t) : t.pending = s.pending := by
  rcases seqStep_cases h with ⟨_, _, rfl⟩ | ⟨_, _, rfl⟩ | ⟨_, _, rfl⟩ | ⟨_, rfl⟩ | ⟨_, rfl⟩ <;> simp

/-! ### The commands -/

theorem execNop_cases {s t : State} (h : execNop s = .next t) :
    (s.fault = true ∧ t = respond s true (zext16 s.cause)) ∨ (s.fault = false ∧ t = respondDone s) := by
  unfold execNop at h
  exact (serve_cases h).imp_right fun ⟨hf, e⟩ => ⟨hf, by injection e with e; exact e.symm⟩

theorem execRdpx_cases {x y : Coord} {s t : State} (h : execRdpx x y s = .next t) :
    (s.fault = true ∧ t = respond s true (zext16 s.cause)) ∨
    (s.fault = false ∧
      ((s.n8 = 0#4 ∧ t = raiseFault s .nocfg) ∨
       (s.n8 ≠ 0#4 ∧ inRange x.toNat y.toNat (sideOf s.n8) = false ∧ t = raiseFault s .coord) ∨
       (codecDefined s.n8 x.toNat y.toNat = true ∧
        t = respond s false (zext16 (BitVec.ofBool (getCell s s.front x.toNat y.toNat (sideOf s.n8))))))) := by
  unfold execRdpx at h
  exact (serve_cases h).imp_right fun ⟨hf, e⟩ => ⟨hf, withCell_cases e⟩

theorem execWrpx_cases {x y : Coord} {v : Bool} {s t : State} (h : execWrpx x y v s = .next t) :
    (s.fault = true ∧ t = respond s true (zext16 s.cause)) ∨
    (s.fault = false ∧
      ((s.n8 = 0#4 ∧ t = raiseFault s .nocfg) ∨
       (s.n8 ≠ 0#4 ∧ inRange x.toNat y.toNat (sideOf s.n8) = false ∧ t = raiseFault s .coord) ∨
       (codecDefined s.n8 x.toNat y.toNat = true ∧
        t = respondDone (setCell s s.front x.toNat y.toNat (sideOf s.n8) v)))) := by
  unfold execWrpx at h
  exact (serve_cases h).imp_right fun ⟨hf, e⟩ => ⟨hf, withCell_cases e⟩

theorem execLdb_cases {idx : Idx} {data : Byte} {s t : State} (h : execLdb idx data s = .next t) :
    (s.fault = true ∧ t = respond s true (zext16 s.cause)) ∨
    (s.fault = false ∧ t = respondDone (writeByte s s.front idx data)) := by
  unfold execLdb at h
  exact (serve_cases h).imp_right fun ⟨hf, e⟩ => ⟨hf, by injection e with e; exact e.symm⟩

theorem execRdb_cases {idx : Idx} {s t : State} (h : execRdb idx s = .next t) :
    (s.fault = true ∧ t = respond s true (zext16 s.cause)) ∨
    (s.fault = false ∧ t = respond s false (zext16 (readByte s s.front idx))) := by
  unfold execRdb at h
  exact (serve_cases h).imp_right fun ⟨hf, e⟩ => ⟨hf, by injection e with e; exact e.symm⟩

theorem execCfg_cases {policy : Policy} {n8 : BitVec 4} {s t : State} (h : execCfg policy n8 s = .next t) :
    (s.fault = true ∧ t = respond s true (zext16 s.cause)) ∨
    (s.fault = false ∧
      (((n8 = 0#4 ∨ 8 < n8.toNat) ∧ t = raiseFault s .badn) ∨
       (1 ≤ n8.toNat ∧ n8.toNat ≤ 8 ∧ t = respondDone (setConfig s policy n8)))) := by
  unfold execCfg at h
  refine (serve_cases h).imp_right fun ⟨hf, e⟩ => ⟨hf, ?_⟩
  split at e
  · next hn => exact .inl ⟨hn, by injection e with e; exact e.symm⟩
  · next hn =>
    rw [not_or, not_lt] at hn
    exact .inr ⟨Nat.one_le_iff_ne_zero.mpr fun h0 => hn.1 (BitVec.eq_of_toNat_eq h0), hn.2,
      by injection e with e; exact e.symm⟩

theorem execEvolve_cases {s t : State} (h : execEvolve s = .next t) :
    (s.fault = true ∧ t = respond s true (zext16 s.cause)) ∨
    (s.fault = false ∧
      ((s.n8 = 0#4 ∧ t = raiseFault s .nocfg) ∨
       (s.n8 ≠ 0#4 ∧ t = startEvolve s))) := by
  unfold execEvolve at h
  refine (serve_cases h).imp_right fun ⟨hf, e⟩ => ⟨hf, ?_⟩
  split at e
  · next hn => exact .inl ⟨hn, by injection e with e; exact e.symm⟩
  · next hn => exact .inr ⟨hn, by injection e with e; exact e.symm⟩

theorem execStat_cases {s t : State} (h : execStat s = .next t) : t = respond s false (statusWord s) := by
  unfold execStat at h; injection h with h; exact h.symm

/-- What a command can do outside the fault state, by its result (R76 to R79, R99, R120 to R122). -/
theorem exec_cases {i : Instr} {s t : State} (h : exec i s = .next t) :
    (s.fault = true ∧ i ≠ .stat ∧ t = respond s true (zext16 s.cause)) ∨
    (∃ c, s.fault = false ∧ t = raiseFault s c) ∨
    (i = .stat ∧ t = respond s false (statusWord s)) ∨
    (i = .nop ∧ s.fault = false ∧ t = respondDone s) ∨
    (∃ x y, i = .rdpx x y ∧ s.fault = false ∧ codecDefined s.n8 x.toNat y.toNat = true ∧
      t = respond s false (zext16 (BitVec.ofBool (getCell s s.front x.toNat y.toNat (sideOf s.n8))))) ∨
    (∃ x y v, i = .wrpx x y v ∧ s.fault = false ∧ codecDefined s.n8 x.toNat y.toNat = true ∧
      t = respondDone (setCell s s.front x.toNat y.toNat (sideOf s.n8) v)) ∨
    (∃ idx data, i = .ldb idx data ∧ s.fault = false ∧ t = respondDone (writeByte s s.front idx data)) ∨
    (∃ idx, i = .rdb idx ∧ s.fault = false ∧ t = respond s false (zext16 (readByte s s.front idx))) ∨
    (∃ policy n8, i = .cfg policy n8 ∧ s.fault = false ∧ 1 ≤ n8.toNat ∧ n8.toNat ≤ 8 ∧
      t = respondDone (setConfig s policy n8)) ∨
    (i = .evolve ∧ s.fault = false ∧ s.n8 ≠ 0#4 ∧ t = startEvolve s) := by
  cases i with
  | nop => rcases execNop_cases h with ⟨hf, rfl⟩ | ⟨hf, rfl⟩ <;> simp [hf]
  | rdpx x y =>
    rcases execRdpx_cases h with ⟨hf, rfl⟩ | ⟨hf, ⟨_, rfl⟩ | ⟨_, _, rfl⟩ | ⟨hd, rfl⟩⟩
    · simp [hf]
    · exact .inr (.inl ⟨_, hf, rfl⟩)
    · exact .inr (.inl ⟨_, hf, rfl⟩)
    · exact .inr (.inr (.inr (.inr (.inl ⟨x, y, rfl, hf, hd, rfl⟩))))
  | wrpx x y v =>
    rcases execWrpx_cases h with ⟨hf, rfl⟩ | ⟨hf, ⟨_, rfl⟩ | ⟨_, _, rfl⟩ | ⟨hd, rfl⟩⟩
    · simp [hf]
    · exact .inr (.inl ⟨_, hf, rfl⟩)
    · exact .inr (.inl ⟨_, hf, rfl⟩)
    · exact .inr (.inr (.inr (.inr (.inr (.inl ⟨x, y, v, rfl, hf, hd, rfl⟩)))))
  | ldb idx data => rcases execLdb_cases h with ⟨hf, rfl⟩ | ⟨hf, rfl⟩ <;> simp [hf]
  | rdb idx => rcases execRdb_cases h with ⟨hf, rfl⟩ | ⟨hf, rfl⟩ <;> simp [hf]
  | cfg policy n8 =>
    rcases execCfg_cases h with ⟨hf, rfl⟩ | ⟨hf, ⟨_, rfl⟩ | ⟨h1, h8, rfl⟩⟩
    · simp [hf]
    · exact .inr (.inl ⟨_, hf, rfl⟩)
    · simp [hf, h1, h8]
  | evolve =>
    rcases execEvolve_cases h with ⟨hf, rfl⟩ | ⟨hf, ⟨_, rfl⟩ | ⟨hn, rfl⟩⟩
    · simp [hf]
    · exact .inr (.inl ⟨_, hf, rfl⟩)
    · simp only [hf, ne_eq, hn, not_false_eq_true, and_self, or_true]
  | stat => obtain rfl := execStat_cases h; simp

/-- What accepting a word can do: execute the command it decodes to, or fault or be refused as ILLEGAL (R60). -/
theorem accept_cases {w : CmdWord} {s t : State} (h : accept w s = .next t) :
    (∃ i, decode w = .legal i ∧ exec i s = .next t) ∨
    (∃ why, decode w = .illegal why ∧
      ((s.fault = true ∧ t = respond s true (zext16 s.cause)) ∨ (s.fault = false ∧ t = raiseFault s .illcmd))) := by
  unfold accept at h
  split at h
  · next i e => exact .inl ⟨i, e, h⟩
  · next why e =>
    rcases serve_cases h with h | ⟨hf, h⟩
    · exact .inr ⟨why, e, .inl h⟩
    · injection h with h; exact .inr ⟨why, e, .inr ⟨hf, h.symm⟩⟩

/-- What a step can do (R60, R100, R150): a reset, a micro-step (with or without a pause of the host), an accepted
command, or a command that waits. -/
theorem step_cases {s t : State} (h : step s = .next t) :
    (s.pending = [] ∧ seqStep s = .next t) ∨
    (∃ rest, s.pending = .rst :: rest ∧ t = takeReset { s with pending := rest }) ∨
    (∃ rest, s.pending = .quiet :: rest ∧ seqStep { s with pending := rest } = .next t) ∨
    (∃ w rest, s.pending = .cmd w :: rest ∧ s.ph.busy = false ∧ accept w { s with pending := rest } = .next t) ∨
    (∃ w rest, s.pending = .cmd w :: rest ∧ s.ph.busy = true ∧ seqStep s = .next t) := by
  unfold step advance at h
  split at h
  · next e => exact .inl ⟨e, h⟩
  · next rest e => injection h with h; exact .inr (.inl ⟨rest, e, h.symm⟩)
  · next rest e => exact .inr (.inr (.inl ⟨rest, e, h⟩))
  · next w rest e =>
    cases hb : s.ph.busy with
    | true => exact .inr (.inr (.inr (.inr ⟨w, rest, e, rfl, by simpa [cmdReady, hb] using h⟩)))
    | false => exact .inr (.inr (.inr (.inl ⟨w, rest, e, rfl, by simpa [cmdReady, hb] using h⟩)))

end Sys2Proof.Machine
end

