-- ==== Sys2Proof/Laws/Engine.lean ====
section
/-! SUPPORT. The engine's small facts: how far a count goes, what a micro-step leaves in the banks, and that the invariants
put the sequencer inside the codec's domain (41_cell_update.md R94, R100, R105, R108). -/

namespace Sys2Proof.Machine

/-- A neighbour adds 0 or 1 to the count (R108). -/
theorem neighbourValue_le_one (rd : Idx → Byte) (x y k n : Nat) (p : Policy) : neighbourValue rd x y k n p ≤ 1 := by
  unfold neighbourValue
  split
  · exact Bool.toNat_le _
  · exact Nat.zero_le _

/-- The count over the offsets before k is at most k (R19, R26 (g)). -/
theorem countUpTo_le (rd : Idx → Byte) (x y n : Nat) (p : Policy) (k : Nat) : countUpTo rd x y n p k ≤ k := by
  induction k with
  | zero => exact Nat.le_refl 0
  | succ k ih => exact Nat.add_le_add ih (neighbourValue_le_one rd x y k n p)

/-- From a state that meets the invariants, CENTER, NEIGH and WRITE call the codec inside its domain (R105, R139). -/
theorem codecDefined_of_inv {s : State} (hi : Inv s) (h : s.ph = .center ∨ s.ph = .neigh ∨ s.ph = .write) :
    codecDefined s.n8 s.cx.toNat s.cy.toNat = true := by
  obtain ⟨ha, -, he, hf, -⟩ := hi
  have hn := (he (by rcases h with h | h | h <;> simp [h, Phase.busy])).1
  rw [codecDefined_iff]
  exact ⟨Nat.pos_of_ne_zero fun h0 => hn (BitVec.eq_of_toNat_eq h0), ha, hf h⟩

/-! What the micro-steps leave in the banks (R100). -/

@[simp] theorem readByte_startEvolve (s : State) : readByte (startEvolve s) = readByte s := rfl

@[simp] theorem readByte_seqCenter (s : State) : readByte (seqCenter s) = readByte s := rfl

@[simp] theorem readByte_seqNeigh (s : State) : readByte (seqNeigh s) = readByte s := by
  funext b; exact readByte_congr s _ b (by simp [bank]) (by simp)

@[simp] theorem readByte_seqSwap (s : State) : readByte (seqSwap s) = readByte s := rfl

theorem readByte_seqAdvance (s : State) : readByte (seqAdvance s) = readByte s := by
  unfold seqAdvance
  split
  · rfl
  · split <;> rfl

/-- WRITE changes what cell_set changes (R74, R102). -/
theorem readByte_seqWrite (s : State) :
    readByte (seqWrite s) =
      readByte (setCell s (!s.front) s.cx.toNat s.cy.toNat (sideOf s.n8) (nextState s.alive s.cnt.toNat)) :=
  readByte_seqAdvance _

/-- The front bank is never written while an EVOLVE scans (R38, R159). -/
theorem readByte_seqWrite_front (s : State) : readByte (seqWrite s) s.front = readByte s s.front := by
  rw [readByte_seqWrite]
  exact readByte_setCell_other_bank s _ _ _ _ _ _ (by cases s.front <;> simp)

/-! ### The run of the sequencer -/

/-- `settle` takes one micro-step of a busy block. -/
theorem settle_busy {n : Nat} {s t : State} (hb : s.ph.busy = true) (h : seqStep s = .next t) :
    settle (n + 1) s = settle n t := by
  simp [settle, hb, h]

/-- `settle` leaves a block alone that runs no EVOLVE. -/
theorem settle_idle (n : Nat) {s : State} (hb : s.ph.busy = false) : settle n s = .next s := by
  cases n <;> simp [settle, hb]

end Sys2Proof.Machine
end

