-- ==== Sys2Proof/Laws/PerInstr.lean ====
section
/-! SUPPORT. Statements made per command, about the command as syntax: its word is a word of its own row of the opcode
map (30_encoding.md R55) with the row's opcode in bits 23:20 and rz = 0 (R50). -/

/-- The word of `i` has its row's opcode and rz = 0 (R50), and is a word of its row (R55). -/
def Sys2Proof.Laws.RowWord.Statement (i : Sys2Proof.Instr) : Prop :=
  Sys2Proof.fieldOp (Sys2Proof.encode i) = Sys2Proof.fieldOp (Sys2Proof.opRow i).mtch ∧
  Sys2Proof.fieldRz (Sys2Proof.encode i) = 0#3 ∧
  (Sys2Proof.opRow i).matches (Sys2Proof.encode i) = true

namespace Sys2Proof.Laws.RowWord

theorem op_rz_formatP (op : BitVec 4) (v : Bool) (y x : Coord) :
    fieldOp (formatP op v y x) = op ∧ fieldRz (formatP op v y x) = 0#3 := by
  have := formatP_toNat op v y x
  have := v.toNat_lt; have := y.isLt; have := x.isLt; have := op.isLt
  exact ⟨BitVec.eq_of_toNat_eq (by rw [fieldOp_toNat]; omega),
    BitVec.eq_of_toNat_eq (by rw [fieldRz_toNat]; show _ = 0; omega)⟩

theorem op_rz_formatB (op : BitVec 4) (idx : Idx) (data : Byte) :
    fieldOp (formatB op idx data) = op ∧ fieldRz (formatB op idx data) = 0#3 := by
  have := formatB_toNat op idx data
  have := idx.isLt; have := data.isLt; have := op.isLt
  exact ⟨BitVec.eq_of_toNat_eq (by rw [fieldOp_toNat]; omega),
    BitVec.eq_of_toNat_eq (by rw [fieldRz_toNat]; show _ = 0; omega)⟩

theorem op_rz_formatC (op : BitVec 4) (p : Policy) (n8 : BitVec 4) :
    fieldOp (formatC op p n8) = op ∧ fieldRz (formatC op p n8) = 0#3 := by
  have := formatC_toNat op p n8
  have := p.toBit.toNat_lt; have := n8.isLt; have := op.isLt
  exact ⟨BitVec.eq_of_toNat_eq (by rw [fieldOp_toNat]; omega),
    BitVec.eq_of_toNat_eq (by rw [fieldRz_toNat]; show _ = 0; omega)⟩

theorem nop : Statement .nop := by unfold Statement; decide

theorem rdpx (x y : Coord) : Statement (.rdpx x y) := by
  refine ⟨(op_rz_formatP 1#4 false y x).1.trans (show _ = fieldOp 0x100000 by decide), (op_rz_formatP 1#4 false y x).2, decide_eq_true ?_⟩
  apply BitVec.eq_of_getLsbD_eq; intro j hj
  simp only [opRow, encode, formatP]
  interval_cases j <;> simp only [BitVec.getLsbD_and, BitVec.getLsbD_append] <;> simp

theorem wrpx (x y : Coord) (v : Bool) : Statement (.wrpx x y v) := by
  refine ⟨(op_rz_formatP 2#4 v y x).1.trans (show _ = fieldOp 0x200000 by decide), (op_rz_formatP 2#4 v y x).2, decide_eq_true ?_⟩
  apply BitVec.eq_of_getLsbD_eq; intro j hj
  simp only [opRow, encode, formatP]
  interval_cases j <;> simp only [BitVec.getLsbD_and, BitVec.getLsbD_append] <;> simp

theorem ldb (idx : Idx) (data : Byte) : Statement (.ldb idx data) := by
  refine ⟨(op_rz_formatB 3#4 idx data).1.trans (show _ = fieldOp 0x300000 by decide), (op_rz_formatB 3#4 idx data).2, decide_eq_true ?_⟩
  apply BitVec.eq_of_getLsbD_eq; intro j hj
  simp only [opRow, encode, formatB]
  interval_cases j <;> simp only [BitVec.getLsbD_and, BitVec.getLsbD_append] <;> simp

theorem rdb (idx : Idx) : Statement (.rdb idx) := by
  refine ⟨(op_rz_formatB 4#4 idx 0#8).1.trans (show _ = fieldOp 0x400000 by decide), (op_rz_formatB 4#4 idx 0#8).2, decide_eq_true ?_⟩
  apply BitVec.eq_of_getLsbD_eq; intro j hj
  simp only [opRow, encode, formatB]
  interval_cases j <;> simp only [BitVec.getLsbD_and, BitVec.getLsbD_append] <;> simp

theorem cfg (policy : Policy) (n8 : BitVec 4) : Statement (.cfg policy n8) := by
  refine ⟨(op_rz_formatC 5#4 policy n8).1.trans (show _ = fieldOp 0x500000 by decide), (op_rz_formatC 5#4 policy n8).2, decide_eq_true ?_⟩
  apply BitVec.eq_of_getLsbD_eq; intro j hj
  simp only [opRow, encode, formatC]
  interval_cases j <;> simp only [BitVec.getLsbD_and, BitVec.getLsbD_append] <;> simp

theorem evolve : Statement .evolve := by unfold Statement; decide

theorem stat : Statement .stat := by unfold Statement; decide

end Sys2Proof.Laws.RowWord
end

