-- ==== Sys2Proof/Tests/Slice0.lean ====
section
/-! SUPPORT. The model's own tests: words written out from the formats, one ill-formed term for each well-formedness check,
one-step tests whose results are the spec's own examples, and for every statement of
Certificates/Slice0/Obligations.lean with hypotheses a witness that meets them. -/

namespace Sys2Proof.Tests

open Sys2Proof Sys2Proof.Machine

/-! ## Small states -/

/-- The state a step ends in, if it ends in one. -/
def nextOf (o : Host.Outcome State Fault Refusal) : Option State :=
  match o with
  | .next t => some t
  | .fault _ => none
  | .refused _ => none

/-- The last response of a state. -/
def lastRsp (t : State) : Option Response := t.responses.getLast?

/-- A block with a side, a policy and the listed bytes in bank 0. -/
def cfgd (n8 : BitVec 4) (p : Policy) (bytes : Memory) : State :=
  { State.reset with n8 := n8, policy := p, g0 := bytes }

/-- The grid of R99's example: N = 8, three live cells in row 3. -/
def row3 : Memory := [(0, 0), (1, 0), (2, 0), (3, 0x38), (4, 0), (5, 0), (6, 0), (7, 0)]

/-- R99's example block. -/
def blk (p : Policy) : State := cfgd 1#4 p row3

/-- A block in the fault state after a COORD fault, N = 32 (R16's last example). -/
def faulted : State := { cfgd 4#4 .clamped [] with fault := true, cause := 4#3, ph := .faulted }

/-- An EVOLVE in progress on R99's example, at a cell and a neighbour. -/
def scan (p : Policy) (ph : Phase) (x y : Coord) (k : BitVec 3) (cnt : BitVec 4) (alive : Bool) : State :=
  { blk p with ph := ph, cx := x, cy := y, k := k, cnt := cnt, alive := alive, g1 := [(2, 0x00), (7, 0xFF)] }

/-! ## Decoding: words written out bit by bit (R51 to R54) -/

theorem test_decode_formatZ : decode 0b0000_000_00000000000000000#24 = .legal .nop ∧
    decode 0b0110_000_00000000000000000#24 = .legal .evolve ∧
    decode 0b0111_000_00000000000000000#24 = .legal .stat := by decide

theorem test_decode_formatP : decode 0b0001_000_0000_0_000101_000011#24 = .legal (.rdpx 3 5) ∧
    decode 0b0010_000_0000_1_000000_000111#24 = .legal (.wrpx 7 0 true) ∧
    decode 0b0010_000_0000_0_001011_001010#24 = .legal (.wrpx 10 11 false) := by decide

theorem test_decode_formatB : decode 0b0011_000_111111111_10100101#24 = .legal (.ldb 511 0xA5) ∧
    decode 0b0100_000_000000010_00000000#24 = .legal (.rdb 2) := by decide

theorem test_decode_formatC : decode 0b0101_000_000000000000_1_1000#24 = .legal (.cfg .toroidal 8) ∧
    decode 0b0101_000_000000000000_0_0000#24 = .legal (.cfg .clamped 0) := by decide

/-- 30_encoding.md section 7, encoded. -/
theorem test_encode_worked_words : encode (.rdpx 63 63) = 0x100FFF ∧ encode (.wrpx 63 63 true) = 0x201FFF ∧
    encode (.ldb 3 0x38) = 0x300338 ∧ encode (.rdb 2) = 0x400200 ∧ encode (.cfg .toroidal 8) = 0x500018 ∧
    encode .nop = 0x000000 ∧ encode .evolve = 0x600000 ∧ encode .stat = 0x700000 := by decide

/-- The rows of R55 never overlap: their match values differ in the op field, which every mask covers. -/
theorem test_opcode_rows_disjoint :
    (opcodeTable.map fun r => r.mtch &&& 0xF00000).Nodup ∧ ∀ r ∈ opcodeTable, r.mask &&& 0xF00000 = 0xF00000 := by decide

theorem test_table_word : decodeTableWord 24 0x500011 = some (.cfg .toroidal 1) ∧ decodeTableWord 24 0x800000 = none ∧
    decodeTableWord 32 0x500011 = none := by decide

/-- The very next step accepts the placed word, even where an EVOLVE was running. -/
theorem test_placed_word_runs :
    nextOf (step (State.reset.withFetchWord 24 0x700000)) = nextOf (exec .stat State.reset) ∧
    nextOf (step ((scan .clamped .neigh 3 3 2 1 true).withFetchWord 24 0x500018)) =
      nextOf (exec (.cfg .toroidal 8) { scan .clamped .neigh 3 3 2 1 true with ph := .idle }) := by decide

/-! ## Well-formedness: one ill-formed term for each check -/

theorem test_illformed_opcode : CmdWord.badOpcode 0x800000 = true ∧ CmdWord.wellFormed 0x800000 = false := by decide
theorem test_illformed_rz : CmdWord.badRz 0x020000 = true ∧ CmdWord.wellFormed 0x020000 = false := by decide
theorem test_illformed_pz : CmdWord.badReserved 0x202000 = true ∧ CmdWord.wellFormed 0x202000 = false := by decide
theorem test_illformed_cz : CmdWord.badReserved 0x500020 = true ∧ CmdWord.wellFormed 0x500020 = false := by decide
theorem test_illformed_zz : CmdWord.badReserved 0x600001 = true ∧ CmdWord.wellFormed 0x600001 = false := by decide
theorem test_illformed_rdpx_v : CmdWord.badRdpxV 0x101000 = true ∧ CmdWord.wellFormed 0x101000 = false := by decide
theorem test_illformed_rdb_data : CmdWord.badRdbData 0x400201 = true ∧ CmdWord.wellFormed 0x400201 = false := by decide
theorem test_wellformed_words : CmdWord.wellFormed 0x201FFF = true ∧ CmdWord.wellFormed 0x50001F = true := by decide

/-- One operand out of its range in each kind of line (R61, R62). -/
theorem test_illformed_lines :
    [AsmLine.rdpx 64 0, .rdpx 0 64, .wrpx 0 64 0, .wrpx 64 0 0, .wrpx 0 0 2, .ldb 512 0, .ldb 0 256, .rdb 512, .cfg 12 .clamped,
      .cfg 128 .clamped, .setpx 64 0, .clrpx 0 64, .fill 256, .seed [], .seed [256], .dump 0, .dump 513].all
      (fun l => !l.wellFormed) = true := by decide

/-- V22 to V24's kind: lines of text to words (R61). -/
theorem test_assembler_text :
    parseLine ['W', 'R', 'P', 'X', ' ', '1', '0', ',', ' ', '0', 'x', 'B', ',', '0', ' ', ';', 'c'] =
      some (some (.wrpx 10 11 0)) ∧
    parseLine ['C', 'F', 'G', ' ', '6', '4', ',', ' ', 'T', 'O', 'R', 'O', 'I', 'D', 'A', 'L'] = some (some (.cfg 64 .toroidal)) ∧
    parseLine [' ', ';', ' ', 'x'] = some none ∧ parseLine ['R', 'D', 'B'] = none ∧
    assembleWords (.cfg 64 .toroidal) = some [0x500018] ∧ assembleWords (.wrpx 10 11 0) = some [0x2002CA] := by decide

/-! ## One step of each command: the spec's own examples -/

/-- R120's example, and R135's refusal. -/
theorem test_nop : nextOf (exec .nop State.reset) = some { State.reset with responses := [⟨false, 0x0000⟩] } ∧
    nextOf (exec .nop faulted) = some { faulted with responses := [⟨true, 0x0004⟩] } := by decide

/-- R76's example: N = 32, byte 41 = 0x30, `RDPX 10, 10` responds 1; its neighbour bit responds 0. -/
theorem test_rdpx_reads_the_bit :
    (nextOf (exec (.rdpx 10 10) (cfgd 4#4 .clamped [(41, 0x30)]))).bind lastRsp = some ⟨false, 0x0001⟩ ∧
    (nextOf (exec (.rdpx 9 10) (cfgd 4#4 .clamped [(41, 0x30)]))).bind lastRsp = some ⟨false, 0x0000⟩ := by decide

/-- R76's corner cases: x = N faults COORD; unconfigured, NOCFG comes first (R132). -/
theorem test_rdpx_faults :
    (nextOf (exec (.rdpx 32 0) (cfgd 4#4 .clamped []))).bind lastRsp = some ⟨true, 0x0004⟩ ∧
    (nextOf (exec (.rdpx 40 0) State.reset)).bind lastRsp = some ⟨true, 0x0002⟩ := by decide

/-- R77's example: `WRPX 7, 0, 1` sets bit 0 of byte 0; clearing a bit leaves the other seven. -/
theorem test_wrpx_writes_the_bit :
    (nextOf (exec (.wrpx 7 0 true) (cfgd 4#4 .clamped [(0, 0x00)]))).map State.g0 = some [(0, 0x01)] ∧
    (nextOf (exec (.wrpx 1 0 false) (cfgd 4#4 .clamped [(0, 0xFF)]))).map State.g0 = some [(0, 0xBF)] := by decide

/-- A faulting WRPX changes no byte (R77, R133). -/
theorem test_wrpx_fault_writes_nothing :
    nextOf (exec (.wrpx 0 8 true) (blk .clamped)) =
      some { blk .clamped with fault := true, cause := 4#3, ph := .faulted, responses := [⟨true, 0x0004⟩] } := by decide

/-- R78's example, in the front bank only (FRONT = 1 here). -/
theorem test_ldb : nextOf (exec (.ldb 3 0x38) { blk .clamped with front := true, g1 := [(7, 0xAA)] }) =
    some { blk .clamped with front := true, g1 := [(3, 0x38), (7, 0xAA)], responses := [⟨false, 0x0000⟩] } := by decide

/-- R79's example, and index 511 unconfigured. -/
theorem test_rdb : (nextOf (exec (.rdb 3) (blk .clamped))).bind lastRsp = some ⟨false, 0x0038⟩ ∧
    (nextOf (exec (.rdb 511) { State.reset with g0 := [(511, 0xFF)] })).bind lastRsp = some ⟨false, 0x00FF⟩ := by decide

/-- R121's examples: `CFG 32, CLAMPED`, and `CFG 72, CLAMPED` faults and keeps the old configuration. -/
theorem test_cfg : nextOf (exec (.cfg .clamped 4) (blk .toroidal)) =
      some { blk .toroidal with n8 := 4, policy := .clamped, responses := [⟨false, 0x0000⟩] } ∧
    nextOf (exec (.cfg .clamped 9) (blk .toroidal)) =
      some { blk .toroidal with fault := true, cause := 3, ph := .faulted, responses := [⟨true, 0x0003⟩] } := by decide

/-- R16's examples. -/
theorem test_stat : (nextOf (exec .stat State.reset)).bind lastRsp = some ⟨false, 0x0000⟩ ∧
    (nextOf (exec .stat { cfgd 8#4 .toroidal [] with front := true })).bind lastRsp = some ⟨false, 0x0230⟩ ∧
    (nextOf (exec .stat faulted)).bind lastRsp = some ⟨false, 0x0109⟩ := by decide

/-- R100's accepting transition, and R99's NOCFG. -/
theorem test_evolve : nextOf (exec .evolve { blk .clamped with cx := 7, cy := 7 }) = some { blk .clamped with ph := .center } ∧
    (nextOf (exec .evolve State.reset)).bind lastRsp = some ⟨true, 0x0002⟩ := by decide

/-! ## One micro-step of each phase (41_cell_update.md part 5) -/

/-- CENTER at (2, 3): ALIVE = 1. NEIGH at (3, 2), K = 5 (the live cell (2, 3)) and K = 7 (the live cell (4, 3)): the count
reaches 3. At (0, 2) neighbour K = 5 is ABSENT when clamped, and the cell (7, 3) when toroidal. WRITE at (3, 2): born,
back-bank byte 2 gets 0x10, and on to (4, 2). WRITE at the last cell clears its bit and goes to SWAP, which inverts FRONT and
responds. -/
theorem test_micro_steps :
    nextOf (step (scan .clamped .center 2 3 5 7 false)) = some (scan .clamped .neigh 2 3 0 0 true) ∧
    nextOf (step (scan .clamped .neigh 3 2 5 0 false)) = some (scan .clamped .neigh 3 2 6 1 false) ∧
    nextOf (step (scan .clamped .neigh 3 2 7 2 false)) = some (scan .clamped .write 3 2 7 3 false) ∧
    nextOf (step (scan .clamped .neigh 0 2 5 1 false)) = some (scan .clamped .neigh 0 2 6 1 false) ∧
    neighbour 0 2 5 8 .toroidal = some (7, 3) ∧
    nextOf (step (scan .clamped .write 3 2 7 3 false)) =
      some { scan .clamped .center 4 2 7 3 false with g1 := [(2, 0x10), (7, 0xFF)] } ∧
    nextOf (step (scan .clamped .write 7 7 7 0 false)) =
      some { scan .clamped .swap 7 7 7 0 false with g1 := [(2, 0x00), (7, 0xFE)] } ∧
    nextOf (step (scan .clamped .swap 7 7 7 0 false)) =
      some { scan .clamped .idle 7 7 7 0 false with front := true, responses := [⟨false, 0x0000⟩] } := by decide

/-- A byte of the next generation of R99's example. -/
theorem test_next_grid_byte : nextGridByte (readByte (blk .clamped) false) 8 .clamped 2 = 0x10 := by decide

/-- rst during an EVOLVE (R150, R152). -/
theorem test_reset_aborts :
    (nextOf (step { scan .toroidal .write 3 2 7 3 false with pending := [.rst] })).map (fun t => { t with resets := 0 }) =
    some { State.reset with resets := 0 } := by decide

/-! ## Witnesses: every statement's hypotheses are met -/

theorem test_witness_EncodeOfDecode : decode 0x201FFF = .legal (.wrpx 63 63 true) := by decide

theorem test_witness_DecodeFollowsTheOpcodeMap :
    opRow (.ldb 0 0) ∈ opcodeTable ∧ (opRow (.ldb 0 0)).matches 0x31FFA5 = true ∧
    (∀ r ∈ opcodeTable, r.matches 0x800000 = false) ∧ decode 0x800000 = .illegal .reservedOpcode := by decide

theorem test_witness_IllegalExactlyByTheFiveClauses :
    decode 0x800000 = .illegal .reservedOpcode ∧ decode 0x020000 = .illegal .rzNotZero ∧ decode 0x202000 = .illegal .pzNotZero ∧
    decode 0x101000 = .illegal .rdpxWithV ∧ decode 0x400201 = .illegal .rdbWithData ∧ decode 0x500020 = .illegal .czNotZero ∧
    decode 0x700001 = .illegal .zzNotZero := by decide

theorem test_witness_OperandsAreTheWordsFields :
    decode 0x100FFF = .legal (.rdpx 63 63) ∧ decode 0x201FC0 = .legal (.wrpx 0 63 true) ∧
    decode 0x31FF00 = .legal (.ldb 511 0) ∧ decode 0x41FF00 = .legal (.rdb 511) ∧
    decode 0x50001F = .legal (.cfg .toroidal 15) ∧ decode 0x500000 = .legal (.cfg .clamped 0) := by decide

/-- A line refused, a line of one word, the largest SEED, and each range at its ends. -/
theorem test_witness_AssemblerLinesExpandAsListed :
    AsmLine.wellFormed (.rdpx 64 0) = false ∧ assembleWords (.rdb 511) = some [0x41FF00] ∧
    AsmLine.wellFormed (.setpx 63 63) = true ∧ AsmLine.wellFormed (.fill 255) = true ∧
    AsmLine.wellFormed (.dump 1) = true ∧ AsmLine.wellFormed (.dump 512) = true ∧
    AsmLine.wellFormed (.cfg 0 .clamped) = true ∧ AsmLine.wellFormed (.cfg 120 .toroidal) = true ∧
    AsmLine.wellFormed (.seed [255]) = true := by decide

theorem test_witness_longest_seed : (List.replicate 512 255).length = 512 ∧ ∀ b ∈ List.replicate 512 255, b < 256 :=
  ⟨List.length_replicate, fun _ h => by rw [List.eq_of_mem_replicate h]; decide⟩

/-- A block outside the fault state and one in it: NOP, LDB, RDB, STAT, and the hypotheses on FAULT of the other commands. -/
theorem test_witness_Nop_Ldb_Rdb : State.reset.fault = false ∧ faulted.fault = true ∧ (511#9).toNat = 511 := by decide

/-- RDPX and WRPX: not configured; each coordinate just outside; the last cell inside at N = 8 and at N = 64. -/
theorem test_witness_Rdpx_Wrpx : State.reset.fault = false ∧ State.reset.n8 = 0#4 ∧
    (blk .clamped).fault = false ∧ (blk .clamped).n8 ≠ 0#4 ∧
    8 * (blk .clamped).n8.toNat ≤ (8#6).toNat ∧ (7#6).toNat < 8 * (blk .clamped).n8.toNat ∧
    (cfgd 8#4 .clamped []).fault = false ∧ (cfgd 8#4 .clamped []).n8.toNat ≤ 8 ∧
    (63#6).toNat < 8 * (cfgd 8#4 .clamped []).n8.toNat := by decide

theorem test_witness_Cfg : State.reset.fault = false ∧ (0#4).toNat = 0 ∧ 8 < (9#4).toNat ∧ 8 < (15#4).toNat ∧
    1 ≤ (1#4).toNat ∧ (8#4).toNat ≤ 8 := by decide

/-- EVOLVE: both cases of its acceptance (EvolveFollowsItsTransitionTable, whose `Inv` has its witnesses below), and `Configured` with a grid byte and a trailing byte at N = 8 and the last
byte at N = 64. It is the hypothesis of EvolveProducesTheNextGrid, EvolveMakesTheListedAccesses and
MicroStepsAgreeWithTheBigStep too. -/
theorem test_witness_Configured : State.reset.fault = false ∧ State.reset.n8 = 0#4 ∧ Configured (blk .clamped) ∧
    Configured (blk .toroidal) ∧ Configured (cfgd 8#4 .toroidal []) ∧
    (7#9).toNat < gridBytes (blk .clamped).side ∧ gridBytes (blk .clamped).side ≤ (8#9).toNat ∧
    (511#9).toNat < gridBytes (cfgd 8#4 .toroidal []).side := by decide

/-- Each row of R100's table: NEIGH before and at K = 7 and with an ABSENT neighbour, WRITE inside a row, at its end and at the
last cell. -/
theorem test_witness_EvolveFollowsItsTransitionTable : Inv (scan .clamped .center 0 0 0 0 false) ∧
    Inv (scan .clamped .neigh 0 0 0 0 false) ∧ Inv (scan .clamped .neigh 7 7 7 7 true) ∧
    Inv (scan .clamped .write 0 7 7 8 true) ∧ Inv (scan .clamped .write 7 0 7 0 true) ∧
    Inv (scan .clamped .write 7 7 7 0 true) ∧ Inv (scan .clamped .swap 7 7 7 0 true) := by
  refine ⟨?_, ?_, ?_, ?_, ?_, ?_, ?_⟩ <;> decide

theorem test_witness_EvolveTakesTheStatedMicroSteps : Configured (blk .clamped) ∧ (blk .clamped).pending = [] ∧
    0 < microSteps (blk .clamped).side ∧ 640 < microSteps (blk .clamped).side := by decide

theorem test_witness_IllegalWordRaisesIllcmd :
    ∃ s : State, s.pending = [.cmd 0x101000] ∧ s.ph = .idle ∧ s.fault = false ∧ CmdWord.wellFormed 0x101000 = false :=
  ⟨{ State.reset with pending := [.cmd 0x101000] }, by decide⟩

/-- R99's example with a word presented. -/
def withWord (s : State) (w : CmdWord) : State := { s with pending := [.cmd w] }

/-- No fault, and each of the four. -/
theorem test_witness_FaultsComeInTheirPriority :
    (Inv (withWord (blk .clamped) 0x100007) ∧ Inv (withWord State.reset 0x10000A)) ∧
    ((withWord (blk .clamped) 0x100007).pending = [.cmd 0x100007] ∧ (withWord (blk .clamped) 0x100007).ph = .idle ∧
      (withWord State.reset 0x10000A).ph = .idle) ∧
    (faultOf 0x100007 (withWord (blk .clamped) 0x100007) = none ∧ faultOf 0x600000 (withWord (blk .clamped) 0x600000) = none ∧
      faultOf 0x800000 (withWord (blk .clamped) 0x800000) = some .illcmd ∧
      faultOf 0x10000A (withWord State.reset 0x10000A) = some .nocfg ∧
      faultOf 0x500009 (withWord (blk .clamped) 0x500009) = some .badn ∧
      faultOf 0x100008 (withWord (blk .clamped) 0x100008) = some .coord) := by
  refine ⟨⟨?_, ?_⟩, ?_, ?_⟩ <;> decide

theorem test_witness_FaultingCommandChangesNothingElse :
    ∃ t, State.reset.fault = false ∧ exec (.rdpx 0 0) State.reset = .next t ∧ t.fault = true := ⟨_, rfl, rfl, rfl⟩

theorem test_witness_FaultStateServesOnlyStat :
    (withWord faulted 0x700000).pending = [.cmd 0x700000] ∧ (withWord faulted 0x700000).fault = true ∧
    (withWord faulted 0x700000).ph = .faulted ∧ onlyCommands (withWord faulted 0x700000).pending = true ∧
    decode 0x700000 = .legal .stat ∧ decode 0x000000 ≠ .legal .stat ∧
    decode 0x800000 ≠ .legal .stat ∧ onlyCommands [.cmd 0x700000, .cmd 0x800000] = true := by decide

theorem test_witness_ReadingCommandsFrame :
    (∃ t, exec .nop State.reset = .next t ∧ t.fault = State.reset.fault) ∧
    (∃ t, exec .stat faulted = .next t ∧ t.fault = faulted.fault) ∧
    (∃ t, exec (.rdpx 7 7) (blk .clamped) = .next t ∧ t.fault = (blk .clamped).fault) ∧
    (∃ t, exec (.rdb 511) (blk .clamped) = .next t ∧ t.fault = (blk .clamped).fault) :=
  ⟨⟨_, rfl, rfl⟩, ⟨_, rfl, rfl⟩, ⟨_, rfl, rfl⟩, ⟨_, rfl, rfl⟩⟩

/-- A store that completes and one that faults. -/
theorem test_witness_StoringCommandsFrame :
    (∃ t, exec (.wrpx 7 7 true) (blk .clamped) = .next t ∧ t.fault = false) ∧
    (∃ t, exec (.wrpx 8 0 true) (blk .clamped) = .next t ∧ t.fault = true) ∧
    (∃ t, exec (.ldb 511 1) (blk .clamped) = .next t ∧ t.fault = false) :=
  ⟨⟨_, rfl, rfl⟩, ⟨_, rfl, rfl⟩, ⟨_, rfl, rfl⟩⟩

theorem test_witness_ConfiguringAndStartingFrame :
    (∃ t, exec (.cfg .toroidal 8) (blk .clamped) = .next t ∧ t.fault = false) ∧
    (∃ t, exec (.cfg .toroidal 9) (blk .clamped) = .next t ∧ t.fault = true) ∧
    (∃ t, exec .evolve (blk .clamped) = .next t ∧ t.fault = false) ∧
    (∃ t, exec .evolve State.reset = .next t ∧ t.fault = true) :=
  ⟨⟨_, rfl, rfl⟩, ⟨_, rfl, rfl⟩, ⟨_, rfl, rfl⟩, ⟨_, rfl, rfl⟩⟩

/-- A micro-step of each busy phase. -/
theorem test_witness_MicroStepFrame :
    (∃ t, seqStep (scan .clamped .center 0 0 0 0 false) = .next t) ∧
    (∃ t, seqStep (scan .clamped .neigh 7 7 7 0 false) = .next t) ∧ (∃ t, seqStep (scan .clamped .write 7 7 7 0 false) = .next t) ∧
    (∃ t, seqStep (scan .clamped .swap 7 7 7 0 false) = .next t) :=
  ⟨⟨_, rfl⟩, ⟨_, rfl⟩, ⟨_, rfl⟩, ⟨_, rfl⟩⟩

/-- An unlisted byte of a store, of a micro-step, and a listed access of each kind. -/
theorem test_witness_ChangedBytesAreListedAccesses :
    Access.write false 8 ∉ instrAccesses (.wrpx 7 7 true) (blk .clamped) ∧
    Access.write false 7 ∈ instrAccesses (.wrpx 7 7 true) (blk .clamped) ∧
    Access.read false 7 ∈ instrAccesses (.rdpx 7 7) (blk .clamped) ∧
    Access.write false 7 ∉ seqAccesses (scan .clamped .write 7 7 7 0 false) ∧
    Access.write true 7 ∈ seqAccesses (scan .clamped .write 7 7 7 0 false) := by decide

theorem test_witness_StepRunsTheDecodedCommand :
    ∃ s : State, s.pending = [.cmd 0x700000] ∧ s.ph = .faulted ∧ decode 0x700000 = .legal .stat :=
  ⟨{ faulted with pending := [.cmd 0x700000] }, by decide⟩

theorem test_witness_CommandWaitsWhileEvolveRuns :
    ∃ s t : State, s.pending = [.cmd 0x700000] ∧ s.ph.busy = true ∧ step s = .next t :=
  ⟨{ scan .clamped .neigh 3 2 7 2 false with pending := [.cmd 0x700000] }, _, rfl, rfl, rfl⟩

theorem test_witness_IdleBlockKeepsAllState :
    State.reset.pending = [] ∧ State.reset.ph.busy = false ∧
    ∃ s : State, s.pending = [.quiet] ∧ s.ph.busy = false :=
  ⟨rfl, rfl, { faulted with pending := [.quiet] }, by decide⟩

/-- ResetGivesTheRegistersFromAnyState and ResetFreesEveryBankByte. -/
theorem test_witness_Reset : ∃ s : State, s.pending = [.rst] ∧ s.ph.busy = true :=
  ⟨{ scan .clamped .neigh 3 2 7 2 false with pending := [.rst] }, by decide⟩

/-- InvariantKeptByEveryStep, ScanRegistersMeanTheCount and NoStepStops: an EVOLVE in progress whose registers mean
what they should. -/
theorem test_witness_Inv : Inv (scan .clamped .neigh 3 2 7 2 false) ∧ InvScan (scan .clamped .neigh 3 2 7 2 false) := by
  constructor <;> decide

theorem test_witness_Inv_write :
    Inv (scan .clamped .write 3 2 7 3 false) ∧ InvScan (scan .clamped .write 3 2 7 3 false) := by
  constructor <;> decide

theorem test_witness_Inv_steps : ∃ t, step (scan .clamped .neigh 3 2 7 2 false) = .next t := ⟨_, rfl⟩

theorem test_witness_FrontChangesOnlyInSwapOrReset :
    (∃ t, step (scan .clamped .swap 7 7 7 0 false) = .next t ∧ t.front ≠ (scan .clamped .swap 7 7 7 0 false).front) ∧
    (∃ s t : State, s.pending = [.rst] ∧ step s = .next t ∧ t.front ≠ s.front) :=
  ⟨⟨_, rfl, by decide⟩, { faulted with front := true, pending := [.rst] }, _, rfl, rfl, by decide⟩

theorem test_witness_ConfigurationChangesOnlyByCfgOrReset :
    (∃ s t : State, s.pending = [.cmd 0x500018] ∧ step s = .next t ∧ t.n8 ≠ s.n8 ∧ t.policy ≠ s.policy) ∧
    (∃ s t : State, s.pending = [.rst] ∧ step s = .next t ∧ t.n8 ≠ s.n8) :=
  ⟨⟨{ blk .clamped with pending := [.cmd 0x500018] }, _, rfl, rfl, by decide⟩,
    { blk .clamped with pending := [.rst] }, _, rfl, rfl, by decide⟩

theorem test_witness_FaultFlagsChangeOnlyByEntryOrReset :
    (∃ s t : State, s.pending = [.cmd 0x500009] ∧ step s = .next t ∧ t.fault ≠ s.fault ∧ t.cause ≠ s.cause) ∧
    (∃ s t : State, s.pending = [.rst] ∧ step s = .next t ∧ t.fault ≠ s.fault) :=
  ⟨⟨{ blk .clamped with pending := [.cmd 0x500009] }, _, rfl, rfl, by decide⟩,
    { faulted with pending := [.rst] }, _, rfl, rfl, by decide⟩

/-- OneResponsePerCommandWord and StepsPerformTheCommandRun. -/
theorem test_witness_command_runs : (Inv (blk .toroidal) ∧ (blk .toroidal).ph.busy = false) ∧
    (Inv faulted ∧ faulted.ph.busy = false) ∧ Inv State.reset := by
  refine ⟨?_, ?_, ?_⟩ <;> decide

/-- The codec's statements: the smallest and the largest side, the last cell of each, and the cell that has byte 511. -/
theorem test_witness_codec : 1 ≤ 1 ∧ 8 ≤ 8 ∧ 7 < 8 * 1 ∧ 63 < 8 * 8 ∧ (7#9).toNat < gridBytes (8 * 1) ∧
    (511#9).toNat < gridBytes (8 * 8) ∧ (byteIndex 56 63 64).toNat = 511 ∧ ((0, 0) : Nat × Nat) ≠ (7, 7) := by decide

theorem test_witness_ReadsSeeTheLatestWrite : State.reset.ph = .idle ∧ State.reset.fault = false ∧ Configured (blk .toroidal) ∧
    (7#6).toNat < (blk .toroidal).side := by decide

theorem test_witness_Reconfiguration : (blk .toroidal).fault = false ∧ (blk .toroidal).ph = .idle ∧ (8#4).toNat ≤ 8 ∧
    (63#6).toNat < 8 * (8#4).toNat ∧ 1 ≤ (1#4).toNat ∧ (7#6).toNat < 8 * (1#4).toNat := by decide

/-- The neighbour statements: a corner and an inner cell, clamped and absent, toroidal and wrapped (R93's example). -/
theorem test_witness_neighbours : neighbour 0 0 0 32 .toroidal = some (31, 31) ∧ neighbour 0 0 0 32 .clamped = none ∧
    neighbour 31 31 7 32 .toroidal = some (0, 0) ∧ neighbour 31 31 0 32 .clamped = some (30, 30) ∧
    neighbour 1 1 7 3 .clamped = some (2, 2) := by decide

/-- Two configured states with the same grid bytes in different banks. -/
theorem test_witness_EvolveDependsOnlyOnTheFrontGrid :
    ∃ s s' : State, Configured s ∧ Configured s' ∧ s.n8 = s'.n8 ∧ s.policy = s'.policy ∧ s.front ≠ s'.front ∧
      SameGrid s s' s.front s'.front s.side :=
  ⟨blk .clamped, { blk .clamped with front := true, g0 := [], g1 := row3 }, by decide, by decide, rfl, rfl, by decide,
    fun i hi => by
      have : i.toNat < 8 := hi
      have e : i = BitVec.ofNat 9 i.toNat := by simp
      rw [e]; interval_cases i.toNat <;> rfl⟩

theorem test_witness_AllDeadGridStaysDead :
    ∃ s : State, Configured s ∧ ∀ i : Idx, i.toNat < gridBytes s.side → readByte s s.front i = 0 :=
  ⟨cfgd 1#4 .clamped [(0, 0), (1, 0), (2, 0), (3, 0), (4, 0), (5, 0), (6, 0), (7, 0)], by decide, fun i hi => by
    have : i.toNat < 8 := hi
    have e : i = BitVec.ofNat 9 i.toNat := by simp
    rw [e]; interval_cases i.toNat <;> rfl⟩

/-- The block at (1, 1), the smallest place away from every edge. -/
theorem test_witness_BlockIsAStillLife :
    ∃ s : State, Configured s ∧ 1 + 2 < s.side ∧ ∀ x y, x < s.side → y < s.side →
      getCell s s.front x y s.side = decide ((x = 1 ∨ x = 1 + 1) ∧ (y = 1 ∨ y = 1 + 1)) :=
  ⟨cfgd 1#4 .toroidal [(0, 0), (1, 0x60), (2, 0x60), (3, 0), (4, 0), (5, 0), (6, 0), (7, 0)], by decide, by decide, by
    have h : ∀ x, x < 8 → ∀ y, y < 8 → getCell (cfgd 1#4 .toroidal [(0, 0), (1, 0x60), (2, 0x60), (3, 0), (4, 0), (5, 0), (6, 0), (7, 0)])
      false x y 8 = decide ((x = 1 ∨ x = 1 + 1) ∧ (y = 1 ∨ y = 1 + 1)) := by decide
    exact fun x y hx hy => h x hx y hy⟩

/-- A grid and its copy shifted by one row and one column. -/
theorem test_witness_ToroidalEvolutionCommutesWithShifts :
    ∃ rd rd' : Idx → Byte, rd ≠ rd' ∧ ∀ x y, x < 8 → y < 8 → cellGet rd' x y 8 = cellGet rd ((x + 1) % 8) ((y + 1) % 8) 8 :=
  ⟨fun i => if i = 3 then 0x38 else 0, fun i => if i = 2 then 0x70 else 0,
    fun h => absurd (congrFun h 2) (by decide), by
      have h : ∀ x, x < 8 → ∀ y, y < 8 → cellGet (fun i : Idx => if i = 2 then (0x70 : Byte) else 0) x y 8 =
        cellGet (fun i : Idx => if i = 3 then (0x38 : Byte) else 0) ((x + 1) % 8) ((y + 1) % 8) 8 := by decide
      exact fun x y hx hy => h x hx y hy⟩

end Sys2Proof.Tests
end

section
/-! SUPPORT. What accepting a word and one step can do, sorted by the registers they write: the case splits behind the
invariants of 10_state.md. -/

namespace Sys2Proof.Machine

/-- What accepting the word `w` in state `s` can lead to: a response alone, a fault (R134), a stored byte of the front
bank (R77, R78), a new configuration (R121), or the start of an EVOLVE (R100). -/
inductive AcceptEffect (w : CmdWord) (s : State) : State → Prop where
  | responds (e : Bool) (d : RspData) : AcceptEffect w s (respond s e d)
  | faults (c : Cause) (hf : s.fault = false) : AcceptEffect w s (raiseFault s c)
  | stores (i : Idx) (v : Byte) : AcceptEffect w s (respondDone (writeByte s s.front i v))
  | configures (p : Policy) (m : BitVec 4) (hw : decode w = .legal (.cfg p m)) (hf : s.fault = false)
      (h1 : 1 ≤ m.toNat) (h8 : m.toNat ≤ 8) : AcceptEffect w s (respondDone (setConfig s p m))
  | starts (hf : s.fault = false) (hn : s.n8 ≠ 0#4) : AcceptEffect w s (startEvolve s)

theorem acceptEffect_of_accept {w : CmdWord} {s t : State} (h : accept w s = .next t) : AcceptEffect w s t := by
  rcases accept_cases h with ⟨i, hw, h⟩ | ⟨_, -, ⟨-, rfl⟩ | ⟨hf, rfl⟩⟩
  · rcases exec_cases h with ⟨-, -, rfl⟩ | ⟨c, hf, rfl⟩ | ⟨-, rfl⟩ | ⟨-, -, rfl⟩ | ⟨_, _, -, -, -, rfl⟩ |
      ⟨_, _, _, -, -, -, rfl⟩ | ⟨idx, data, -, -, rfl⟩ | ⟨_, -, -, rfl⟩ | ⟨p, m, rfl, hf, h1, h8, rfl⟩ | ⟨-, hf, hn, rfl⟩
    · exact .responds _ _
    · exact .faults c hf
    · exact .responds _ _
    · exact .responds _ _
    · exact .responds _ _
    · exact .stores _ _
    · exact .stores idx data
    · exact .responds _ _
    · exact .configures p m hw hf h1 h8
    · exact .starts hf hn
  · exact .responds _ _
  · exact .faults .illcmd hf

/-- A step is a reset, a micro-step that sees some actions still presented, or the acceptance of a word by a block that
runs no EVOLVE (R60, R100, R150). -/
theorem step_resets_or_seqStep_or_accepts {s t : State} (h : step s = .next t) :
    (∃ rest, s.pending = .rst :: rest ∧ t = takeReset { s with pending := rest }) ∨
    (∃ q, seqStep { s with pending := q } = .next t) ∨
    (∃ w rest, s.pending = .cmd w :: rest ∧ s.ph.busy = false ∧ AcceptEffect w { s with pending := rest } t) := by
  rcases step_cases h with ⟨-, h⟩ | h | ⟨rest, -, h⟩ | ⟨w, rest, hq, hb, h⟩ | ⟨-, -, -, -, h⟩
  · exact .inr (.inl ⟨s.pending, h⟩)
  · exact .inl h
  · exact .inr (.inl ⟨rest, h⟩)
  · exact .inr (.inr ⟨w, rest, hq, hb, acceptEffect_of_accept h⟩)
  · exact .inr (.inl ⟨s.pending, h⟩)

/-- A micro-step writes neither CFG nor the fault flags (R13, R15). -/
theorem seqStep_keeps_cfg_and_fault {s t : State} (h : seqStep s = .next t) :
    t.n8 = s.n8 ∧ t.policy = s.policy ∧ t.fault = s.fault ∧ t.cause = s.cause := by
  rcases seqStep_cases h with ⟨-, -, rfl⟩ | ⟨-, -, rfl⟩ | ⟨-, -, rfl⟩ | ⟨-, rfl⟩ | ⟨-, rfl⟩ <;> simp

/-- A micro-step other than SWAP keeps FRONT (R14). -/
theorem seqStep_keeps_front {s t : State} (h : seqStep s = .next t) (hp : s.ph ≠ .swap) : t.front = s.front := by
  rcases seqStep_cases h with ⟨-, -, rfl⟩ | ⟨-, -, rfl⟩ | ⟨-, -, rfl⟩ | ⟨he, -⟩ | ⟨-, rfl⟩
  · simp
  · simp
  · simp
  · exact absurd he hp
  · rfl

/-- No command writes FRONT when it is accepted (R14). -/
theorem AcceptEffect.front_eq {w : CmdWord} {s t : State} (h : AcceptEffect w s t) : t.front = s.front := by
  cases h <;> simp

/-- WRITE's move goes on to the next cell or to SWAP (R100, R101). -/
theorem seqAdvance_ph (s : State) : (seqAdvance s).ph = .center ∨ (seqAdvance s).ph = .swap := by
  unfold seqAdvance
  split
  · exact .inl rfl
  · split
    · exact .inl rfl
    · exact .inr rfl

/-- NEIGH's addition is exact: CNT never wraps (R108). -/
theorem seqNeigh_cnt_toNat {s : State} (h : s.cnt.toNat ≤ s.k.toNat) :
    (seqNeigh s).cnt.toNat = s.cnt.toNat +
      neighbourValue (readByte s s.front) s.cx.toNat s.cy.toNat s.k.toNat (sideOf s.n8) s.policy := by
  have hv := neighbourValue_le_one (readByte s s.front) s.cx.toNat s.cy.toNat s.k.toNat (sideOf s.n8) s.policy
  have hk := s.k.isLt
  rw [seqNeigh_cnt, BitVec.toNat_add, BitVec.toNat_ofNat]
  omega

/-- Before its last neighbour NEIGH counts K up by one, without wrapping. -/
theorem seqNeigh_k_toNat {s : State} (h : s.k.toNat < 7) : (seqNeigh s).k.toNat = s.k.toNat + 1 := by
  rw [seqNeigh_k, if_pos h, BitVec.toNat_add]
  exact Nat.mod_eq_of_lt (by simp; omega)

end Sys2Proof.Machine
end

section
/-! PROOFS. R26: each operation of the block keeps `Inv`, so every step does. -/

namespace Sys2Proof.Machine

variable {s t : State}

theorem inv_reset : Inv State.reset := by decide

theorem inv_takeReset (s : State) : Inv (takeReset s) := inv_reset

theorem inv_respond (hi : Inv s) (e : Bool) (d : RspData) : Inv (respond s e d) := hi

theorem inv_raiseFault (hi : Inv s) (c : Cause) : Inv (raiseFault s c) := by
  obtain ⟨hcfg, -, -, -, -, hbanks⟩ := hi
  have hcode : c.code ≠ 0#3 ∧ c.code.toNat ≤ 4 := by cases c <;> decide
  exact ⟨hcfg, ⟨by simp [hcode.1], hcode.2, by simp⟩, by simp [Phase.busy], by simp [InvCell], by simp [InvCount], hbanks⟩

/-- A byte write touches no register, and keeps the banks canonical. -/
theorem inv_writeByte (hi : Inv s) (b : Bank) (i : Idx) (v : Byte) : Inv (writeByte s b i v) := by
  obtain ⟨hcfg, hfault, hbusy, hcell, hcount, h0, h1⟩ := hi
  have hbanks := writeByte_banks_wf s b i v h0 h1
  cases b <;> exact ⟨hcfg, hfault, hbusy, hcell, hcount, hbanks⟩

/-- A block that runs no EVOLVE may take any legal side: (e), (f) and (g) of R26 speak of busy phases only. -/
theorem inv_setConfig (hi : Inv s) (hb : s.ph.busy = false) (p : Policy) {m : BitVec 4} (h8 : m.toNat ≤ 8) :
    Inv (setConfig s p m) := by
  obtain ⟨-, hfault, -, -, hcount, hbanks⟩ := hi
  refine ⟨h8, hfault, fun hb' => absurd (hb.symm.trans hb') (by decide), fun hp => ?_, hcount, hbanks⟩
  rw [setConfig_ph] at hp
  rcases hp with hp | hp | hp <;> simp [hp, Phase.busy] at hb

theorem inv_startEvolve (hi : Inv s) (hf : s.fault = false) (hn : s.n8 ≠ 0#4) : Inv (startEvolve s) := by
  obtain ⟨hcfg, ⟨hcause, hle, -⟩, -, -, -, hbanks⟩ := hi
  have hside : 0 < sideOf s.n8 := by
    have : s.n8.toNat ≠ 0 := fun h0 => hn (BitVec.eq_of_toNat_eq h0)
    unfold sideOf; omega
  exact ⟨hcfg, ⟨hcause, hle, by simp [hf]⟩, fun _ => ⟨hn, hf⟩, fun _ => ⟨hside, hside⟩, by simp [InvCount], hbanks⟩

theorem AcceptEffect.inv {w : CmdWord} (h : AcceptEffect w s t) (hb : s.ph.busy = false) (hi : Inv s) : Inv t := by
  cases h with
  | responds e d => exact inv_respond hi e d
  | faults c => exact inv_raiseFault hi c
  | stores i v => exact inv_respond (inv_writeByte hi _ i v) _ _
  | configures p m _ _ _ h8 => exact inv_respond (inv_setConfig hi hb p h8) _ _
  | starts hf hn => exact inv_startEvolve hi hf hn

theorem inv_seqCenter (hi : Inv s) (hp : s.ph = .center) : Inv (seqCenter s) := by
  obtain ⟨hcfg, ⟨hcause, hle, -⟩, hbusy, hcell, -, hbanks⟩ := hi
  obtain ⟨hn, hf⟩ := hbusy (by rw [hp]; rfl)
  exact ⟨hcfg, ⟨hcause, hle, by simp [hf]⟩, fun _ => ⟨hn, hf⟩, fun _ => hcell (.inl hp), by simp [InvCount], hbanks⟩

/-- (g) of R26 through NEIGH: CNT and K grow together, and the eighth neighbour leaves CNT at most 8. -/
theorem invCount_seqNeigh (hcount : InvCount s) (hp : s.ph = .neigh) : InvCount (seqNeigh s) := by
  have hck := (hcount.1 hp).1
  have hcnt := seqNeigh_cnt_toNat hck
  have hv := neighbourValue_le_one (readByte s s.front) s.cx.toNat s.cy.toNat s.k.toNat (sideOf s.n8) s.policy
  have hk := s.k.isLt
  refine ⟨fun hp' => ?_, fun _ => by omega⟩
  have hlt : s.k.toNat < 7 := by
    by_contra hge
    simp [hge] at hp'
  have hk' := seqNeigh_k_toNat hlt
  omega

theorem inv_seqNeigh (hi : Inv s) (hp : s.ph = .neigh) : Inv (seqNeigh s) := by
  obtain ⟨hcfg, ⟨hcause, hle, -⟩, hbusy, hcell, hcount, hbanks⟩ := hi
  obtain ⟨hn, hf⟩ := hbusy (by rw [hp]; rfl)
  have hph : (seqNeigh s).ph ≠ .faulted := by
    rw [seqNeigh_ph, hp]; split <;> decide
  refine ⟨by simpa using hcfg, ⟨by simpa using hcause, by simpa using hle, iff_of_false hph (by simp [hf])⟩,
    fun _ => by simp [hn, hf], fun _ => by simpa [State.side] using hcell (.inr (.inl hp)), invCount_seqNeigh hcount hp,
    by simpa [InvBanks] using hbanks⟩

/-- (f) of R26 through WRITE's move: the next cell of the row, or the first of the next row, is in the grid. -/
theorem invCell_seqAdvance (hcfg : InvConfig s) (hcell : InvCell s) (hp : s.ph = .write) : InvCell (seqAdvance s) := by
  obtain ⟨hx, hy⟩ := hcell (.inr (.inr hp))
  have hside : sideOf s.n8 ≤ 64 := by unfold sideOf; omega
  unfold seqAdvance
  split
  · next hx' =>
    refine fun _ => ⟨?_, hy⟩
    rw [BitVec.toNat_add, Nat.mod_eq_of_lt (by simp; omega)]
    exact hx'
  · split
    · next hy' =>
      refine fun _ => ⟨?_, ?_⟩
      · exact Nat.zero_lt_of_lt hx
      · rw [BitVec.toNat_add, Nat.mod_eq_of_lt (by simp; omega)]
        exact hy'
    · simp [InvCell]

theorem inv_seqAdvance (hi : Inv s) (hp : s.ph = .write) : Inv (seqAdvance s) := by
  obtain ⟨hcfg, ⟨hcause, hle, -⟩, hbusy, hcell, -, hbanks⟩ := hi
  obtain ⟨hn, hf⟩ := hbusy (by rw [hp]; rfl)
  have hcell' := invCell_seqAdvance hcfg hcell hp
  have hcount' : InvCount (seqAdvance s) := by rcases seqAdvance_ph s with h | h <;> simp [InvCount, h]
  have hph : (seqAdvance s).ph ≠ .faulted := by rcases seqAdvance_ph s with h | h <;> simp [h]
  exact ⟨by simpa using hcfg, ⟨by simpa using hcause, by simpa using hle, iff_of_false hph (by simp [hf])⟩,
    fun _ => by simp [hn, hf], hcell', hcount', by simpa [InvBanks] using hbanks⟩

theorem inv_seqWrite (hi : Inv s) (hp : s.ph = .write) : Inv (seqWrite s) :=
  inv_seqAdvance (inv_writeByte hi _ _ _) (by simpa using hp)

theorem inv_seqSwap (hi : Inv s) (hp : s.ph = .swap) : Inv (seqSwap s) := by
  obtain ⟨hcfg, ⟨hcause, hle, -⟩, hbusy, -, -, hbanks⟩ := hi
  obtain ⟨hn, hf⟩ := hbusy (by rw [hp]; rfl)
  exact ⟨hcfg, ⟨hcause, hle, by simp [hf]⟩, by simp [Phase.busy], by simp [InvCell], by simp [InvCount], hbanks⟩

theorem inv_seqStep (hi : Inv s) (h : seqStep s = .next t) : Inv t := by
  rcases seqStep_cases h with ⟨hp, -, rfl⟩ | ⟨hp, -, rfl⟩ | ⟨hp, -, rfl⟩ | ⟨hp, rfl⟩ | ⟨-, rfl⟩
  · exact inv_seqCenter hi hp
  · exact inv_seqNeigh hi hp
  · exact inv_seqWrite hi hp
  · exact inv_seqSwap hi hp
  · exact hi

end Sys2Proof.Machine
end

section
/-! PROOFS. R19, R97, R104 (b): the scan registers keep their meaning. -/

namespace Sys2Proof.Machine

variable {s t : State}

/-- Outside NEIGH and WRITE the scan registers mean nothing. -/
theorem invScan_of_ph_ne (hneigh : s.ph ≠ .neigh) (hwrite : s.ph ≠ .write) : InvScan s :=
  ⟨fun h => absurd h hneigh, fun h => absurd h hwrite⟩

theorem invScan_of_not_busy (hb : s.ph.busy = false) : InvScan s :=
  invScan_of_ph_ne (fun h => by simp [h, Phase.busy] at hb) (fun h => by simp [h, Phase.busy] at hb)

/-- A word is accepted outside NEIGH and WRITE, and leaves the block outside them. -/
theorem AcceptEffect.invScan {w : CmdWord} (h : AcceptEffect w s t) (hb : s.ph.busy = false) : InvScan t := by
  cases h with
  | responds e d => exact invScan_of_not_busy hb
  | faults c => exact invScan_of_not_busy rfl
  | stores i v => exact invScan_of_not_busy (by simpa using hb)
  | configures p m => exact invScan_of_not_busy hb
  | starts => exact invScan_of_ph_ne (by simp) (by simp)

/-- CENTER reads the cell and starts an empty count. -/
theorem invScan_seqCenter (s : State) : InvScan (seqCenter s) :=
  ⟨fun _ => ⟨rfl, rfl⟩, by simp⟩

/-- Adding neighbour K to the count over the offsets before K gives the count over the offsets before K + 1 (R94). -/
theorem seqNeigh_cnt_eq_countUpTo (hck : s.cnt.toNat ≤ s.k.toNat)
    (hcnt : s.cnt.toNat = countUpTo (readByte s s.front) s.cx.toNat s.cy.toNat s.side s.policy s.k.toNat) :
    (seqNeigh s).cnt.toNat =
      countUpTo (readByte s s.front) s.cx.toNat s.cy.toNat s.side s.policy (s.k.toNat + 1) := by
  rw [seqNeigh_cnt_toNat hck, hcnt]; rfl

/-- NEIGH counts one more offset; after the eighth the count is complete (R97). -/
theorem invScan_seqNeigh (hcount : InvCount s) (hscan : InvScan s) (hp : s.ph = .neigh) : InvScan (seqNeigh s) := by
  obtain ⟨halive, hcnt⟩ := hscan.1 hp
  obtain ⟨hck, hk7⟩ := hcount.1 hp
  have halive' : (seqNeigh s).alive = getCell (seqNeigh s) (seqNeigh s).front (seqNeigh s).cx.toNat
      (seqNeigh s).cy.toNat (seqNeigh s).side := by simpa [getCell, State.side] using halive
  have hcnt' := seqNeigh_cnt_eq_countUpTo hck hcnt
  by_cases hk : s.k.toNat < 7
  · have hph : (seqNeigh s).ph = .neigh := by rw [seqNeigh_ph, if_pos hk, hp]
    refine ⟨fun _ => ⟨halive', ?_⟩, fun hp' => absurd (hph.symm.trans hp') (by decide)⟩
    rw [hcnt', seqNeigh_k_toNat hk]; simp [State.side]
  · have hph : (seqNeigh s).ph = .write := by rw [seqNeigh_ph, if_neg hk]
    refine ⟨fun hp' => absurd (hph.symm.trans hp') (by decide), fun _ => ⟨halive', ?_⟩⟩
    have hlast : s.k.toNat = 7 := by omega
    rw [hcnt', hlast, countLive]; simp [State.side]

theorem invScan_seqStep (hi : Inv s) (hscan : InvScan s) (h : seqStep s = .next t) : InvScan t := by
  rcases seqStep_cases h with ⟨-, -, rfl⟩ | ⟨hp, -, rfl⟩ | ⟨-, -, rfl⟩ | ⟨-, rfl⟩ | ⟨-, rfl⟩
  · exact invScan_seqCenter s
  · obtain ⟨-, -, -, -, hcount, -⟩ := hi
    exact invScan_seqNeigh hcount hscan hp
  · have hph := seqAdvance_ph
      (setCell s (!s.front) s.cx.toNat s.cy.toNat (sideOf s.n8) (nextState s.alive s.cnt.toNat))
    exact invScan_of_ph_ne (by rcases hph with h | h <;> simp [seqWrite, h])
      (by rcases hph with h | h <;> simp [seqWrite, h])
  · exact invScan_of_not_busy rfl
  · exact hscan

end Sys2Proof.Machine
end

section
/-! PROOFS. The statements of 10_state.md: the invariants (R26), who writes FRONT, CFG and the fault flags (R13 to R15),
and reset (R25). -/

namespace Sys2Proof.Machine

/-- Settles O35: the step is a reset, a micro-step or an acceptance, and each keeps `Inv`. -/
theorem invariantKeptByEveryStep : Obligations.InvariantKeptByEveryStep := by
  intro s t hi h
  rcases step_resets_or_seqStep_or_accepts h with ⟨rest, -, rfl⟩ | ⟨q, h⟩ | ⟨w, rest, -, hb, h⟩
  · exact inv_takeReset _
  · exact inv_seqStep (s := { s with pending := q }) hi h
  · exact h.inv hb hi

/-- Settles O36: only NEIGH extends the count, by exactly the neighbour K. -/
theorem scanRegistersMeanTheCount : Obligations.ScanRegistersMeanTheCount := by
  intro s t hi hscan h
  rcases step_resets_or_seqStep_or_accepts h with ⟨rest, -, rfl⟩ | ⟨q, h⟩ | ⟨w, rest, -, hb, h⟩
  · exact invScan_of_not_busy rfl
  · exact invScan_seqStep (s := { s with pending := q }) hi hscan h
  · exact h.invScan hb

/-- Settles O38: every micro-step but SWAP, and every acceptance, keeps FRONT. -/
theorem frontChangesOnlyInSwapOrReset : Obligations.FrontChangesOnlyInSwapOrReset := by
  intro s t h hne
  rcases step_resets_or_seqStep_or_accepts h with ⟨rest, hq, -⟩ | ⟨q, h⟩ | ⟨w, rest, -, -, h⟩
  · exact .inr ⟨rest, hq⟩
  · exact .inl (by_contra fun hp => hne (seqStep_keeps_front (s := { s with pending := q }) h hp))
  · exact absurd h.front_eq hne

/-- Settles O39: of the effects of accepting a word only CFG's writes N8 and POLICY. -/
theorem configurationChangesOnlyByCfgOrReset : Obligations.ConfigurationChangesOnlyByCfgOrReset := by
  intro s t h hne
  rcases step_resets_or_seqStep_or_accepts h with ⟨rest, hq, -⟩ | ⟨q, h⟩ | ⟨w, rest, hq, -, h⟩
  · exact .inl ⟨rest, hq⟩
  · obtain ⟨hn8, hpolicy, -, -⟩ := seqStep_keeps_cfg_and_fault h
    simp [hn8, hpolicy] at hne
  · cases h with
    | configures p m hw hf h1 h8 => exact .inr ⟨w, rest, p, m, hq, hw, hf, rfl, rfl, h1, h8⟩
    | responds => simp at hne
    | faults => simp at hne
    | stores => simp at hne
    | starts => simp at hne

/-- Settles O40: of the effects of accepting a word only fault entry writes FAULT and CAUSE. -/
theorem faultFlagsChangeOnlyByEntryOrReset : Obligations.FaultFlagsChangeOnlyByEntryOrReset := by
  intro s t h hne
  rcases step_resets_or_seqStep_or_accepts h with ⟨rest, hq, -⟩ | ⟨q, h⟩ | ⟨w, rest, -, -, h⟩
  · exact .inl ⟨rest, hq⟩
  · obtain ⟨-, -, hfault, hcause⟩ := seqStep_keeps_cfg_and_fault h
    simp [hfault, hcause] at hne
  · cases h with
    | faults c hf => exact .inr ⟨hf, rfl, rfl, c, rfl⟩
    | responds => simp at hne
    | stores => simp at hne
    | configures => simp at hne
    | starts => simp at hne

/-- After a reset the status word is 0: all the registers it shows are (R16, R25). -/
theorem statusWord_takeReset (s : State) : statusWord (takeReset s) = 0 := by
  unfold statusWord; simp [Policy.toBit]

/-- A step with rst presented is the reset, whatever the block was doing (R150). -/
theorem step_of_rst {s : State} {rest : List HostAction} (h : s.pending = .rst :: rest) :
    step s = .next (takeReset { s with pending := rest }) := by
  simp [step, advance, h]

/-- Settles O31: the step is `takeReset`, whose registers are constants. -/
theorem resetGivesTheRegistersFromAnyState : Obligations.ResetGivesTheRegistersFromAnyState := by
  intro s rest hq
  exact ⟨_, step_of_rst hq, rfl, rfl, rfl, rfl, rfl, rfl, rfl, rfl, rfl, rfl, rfl, rfl, rfl, rfl, statusWord_takeReset _⟩

/-- Settles O33: every clause is about the one state `State.reset`. -/
theorem resetStateRegisters : Obligations.ResetStateRegisters := by
  unfold Obligations.ResetStateRegisters
  decide

/-- Settles O34: the registers meet R26, and PH = IDLE scans nothing. -/
theorem invariantHoldsAtReset : Obligations.InvariantHoldsAtReset :=
  ⟨inv_reset, invScan_of_not_busy rfl⟩

end Sys2Proof.Machine
end

section
/-! PROOFS. R36, R100, R101: the micro-steps of an EVOLVE as runs of the sequencer: one cell, one row, the whole grid. -/

namespace Sys2Proof.Machine

variable {s t u : State}

/-- `n` micro-steps of a busy block lead from `s` to `t` and make the accesses `as`, in their order (R36, R100). -/
inductive MicroRun : Nat → State → List Access → State → Prop where
  | done (s : State) : MicroRun 0 s [] s
  | more {n : Nat} {s t u : State} {as : List Access} (hb : s.ph.busy = true) (h : seqStep s = .next t)
      (hr : MicroRun n t as u) : MicroRun (n + 1) s (seqAccesses s ++ as) u

theorem MicroRun.single (hb : s.ph.busy = true) (h : seqStep s = .next t) : MicroRun 1 s (seqAccesses s) t := by
  simpa using MicroRun.more hb h (.done t)

theorem MicroRun.trans {n m : Nat} {as bs : List Access} (h : MicroRun n s as t) (h' : MicroRun m t bs u) :
    MicroRun (n + m) s (as ++ bs) u := by
  induction h with
  | done s => simpa using h'
  | more hb hs _ ih =>
    rw [List.append_assoc, Nat.add_right_comm]
    exact .more hb hs (ih h')

theorem MicroRun.traceAccesses_eq {n : Nat} {as : List Access} (h : MicroRun n s as t) : traceAccesses n s = as := by
  induction h with
  | done s => rfl
  | more _ hs _ ih => simp [traceAccesses, hs, ih]

/-- A run that has not come to its SWAP keeps N, POLICY and FRONT (R13, R14). -/
theorem MicroRun.keeps_cfg_and_front {n : Nat} {as : List Access} (h : MicroRun n s as t) (hb : t.ph.busy = true) :
    t.n8 = s.n8 ∧ t.policy = s.policy ∧ t.front = s.front := by
  induction h with
  | done s => exact ⟨rfl, rfl, rfl⟩
  | @more n s t u as _ hs hr ih =>
    obtain ⟨hn8, hpolicy, hfront⟩ := ih hb
    obtain ⟨hn8', hpolicy', -, -⟩ := seqStep_keeps_cfg_and_fault hs
    have hswap : s.ph ≠ .swap := by
      intro hp
      obtain rfl : seqSwap s = t := by simpa [seqStep, hp] using hs
      cases hr with
      | done => simp [Phase.busy] at hb
      | more hb' => simp [Phase.busy] at hb'
    exact ⟨hn8.trans hn8', hpolicy.trans hpolicy', hfront.trans (seqStep_keeps_front hs hswap)⟩

/-! ### The codec's domain -/

/-- What keeps the sequencer inside the codec's domain: a legal side, and the cell (CX, CY) in the grid (R26 (a), (e),
(f)). A configured block that starts an EVOLVE has it, whatever its banks and CAUSE hold. -/
structure InDomain (s : State) : Prop where
  one_le_n8 : 1 ≤ s.n8.toNat
  n8_le_eight : InvConfig s
  cell : InvCell s

theorem codecDefined_of_inDomain (hi : InDomain s) (h : s.ph = .center ∨ s.ph = .neigh ∨ s.ph = .write) :
    codecDefined s.n8 s.cx.toNat s.cy.toNat = true :=
  (codecDefined_iff _ _ _).2 ⟨hi.one_le_n8, hi.n8_le_eight, hi.cell h⟩

theorem inDomain_seqCenter (hi : InDomain s) (hp : s.ph = .center) : InDomain (seqCenter s) :=
  ⟨hi.one_le_n8, hi.n8_le_eight, fun _ => hi.cell (.inl hp)⟩

theorem inDomain_seqNeigh (hi : InDomain s) (hp : s.ph = .neigh) : InDomain (seqNeigh s) :=
  ⟨by simpa using hi.one_le_n8, by simpa using hi.n8_le_eight,
    fun _ => by simpa [State.side] using hi.cell (.inr (.inl hp))⟩

theorem inDomain_seqWrite (hi : InDomain s) (hp : s.ph = .write) : InDomain (seqWrite s) := by
  obtain ⟨h1, h8, hcell⟩ := hi
  have hmove := invCell_seqAdvance (s := setCell s (!s.front) s.cx.toNat s.cy.toNat (sideOf s.n8)
    (nextState s.alive s.cnt.toNat)) (by simpa using h8) (by simpa [InvCell, State.side] using hcell) (by simpa using hp)
  exact ⟨by simpa using h1, by simpa using h8, hmove⟩

theorem inDomain_seqStep (hi : InDomain s) (h : seqStep s = .next t) : InDomain t := by
  rcases seqStep_cases h with ⟨hp, -, rfl⟩ | ⟨hp, -, rfl⟩ | ⟨hp, -, rfl⟩ | ⟨-, rfl⟩ | ⟨-, rfl⟩
  · exact inDomain_seqCenter hi hp
  · exact inDomain_seqNeigh hi hp
  · exact inDomain_seqWrite hi hp
  · exact ⟨hi.one_le_n8, hi.n8_le_eight, by simp [InvCell]⟩
  · exact hi

theorem MicroRun.inDomain {n : Nat} {as : List Access} (h : MicroRun n s as t) (hi : InDomain s) : InDomain t := by
  induction h with
  | done s => exact hi
  | more _ hs _ ih => exact ih (inDomain_seqStep hi hs)

/-! ### The rows of R100's table, inside the codec's domain -/

theorem seqStep_of_center (hi : InDomain s) (hp : s.ph = .center) : seqStep s = .next (seqCenter s) := by
  simp [seqStep, hp, atCell, codecDefined_of_inDomain hi (.inl hp)]

theorem seqStep_of_neigh (hi : InDomain s) (hp : s.ph = .neigh) : seqStep s = .next (seqNeigh s) := by
  simp [seqStep, hp, atCell, codecDefined_of_inDomain hi (.inr (.inl hp))]

theorem seqStep_of_write (hi : InDomain s) (hp : s.ph = .write) : seqStep s = .next (seqWrite s) := by
  simp [seqStep, hp, atCell, codecDefined_of_inDomain hi (.inr (.inr hp))]

theorem seqStep_of_swap (hp : s.ph = .swap) : seqStep s = .next (seqSwap s) := by simp [seqStep, hp]

theorem seqNeigh_of_k_lt (h : s.k.toNat < 7) :
    seqNeigh s = { s with cnt := (seqNeigh s).cnt, k := s.k + 1#3 } := by
  unfold seqNeigh; dsimp only; rw [if_pos h]

theorem seqNeigh_of_k_last (h : ¬ s.k.toNat < 7) :
    seqNeigh s = { s with cnt := (seqNeigh s).cnt, ph := .write } := by
  unfold seqNeigh; dsimp only; rw [if_neg h]

/-- A coordinate that is not the grid's last counts up without wrapping (R18). -/
theorem coord_succ_toNat {c : Coord} (hcfg : InvConfig s) (h : c.toNat + 1 < s.side) : (c + 1#6).toNat = c.toNat + 1 := by
  have hside : s.side ≤ 64 := by unfold State.side sideOf; omega
  rw [BitVec.toNat_add, Nat.mod_eq_of_lt (by simp; omega)]; rfl

/-- WRITE inside a row goes on to the next cell of the row (R101). -/
theorem seqWrite_next_column (hcfg : InvConfig s) (hx : s.cx.toNat + 1 < s.side) :
    (seqWrite s).ph = .center ∧ (seqWrite s).cx.toNat = s.cx.toNat + 1 ∧ (seqWrite s).cy = s.cy := by
  have hc := coord_succ_toNat hcfg hx
  unfold seqWrite seqAdvance
  rw [if_pos (by simpa using hx)]
  exact ⟨rfl, by simpa using hc, by simp⟩

/-- WRITE at the end of a row goes on to the first cell of the next row (R101). -/
theorem seqWrite_next_row (hcfg : InvConfig s) (hx : s.cx.toNat + 1 = s.side) (hy : s.cy.toNat + 1 < s.side) :
    (seqWrite s).ph = .center ∧ (seqWrite s).cx = 0#6 ∧ (seqWrite s).cy.toNat = s.cy.toNat + 1 := by
  have hc := coord_succ_toNat hcfg hy
  unfold seqWrite seqAdvance
  rw [if_neg (by simpa using hx.ge), if_pos (by simpa using hy)]
  exact ⟨rfl, rfl, by simpa using hc⟩

/-- WRITE at the last cell goes on to SWAP (R100). -/
theorem seqWrite_last_cell (hx : s.cx.toNat + 1 = s.side) (hy : s.cy.toNat + 1 = s.side) : (seqWrite s).ph = .swap := by
  unfold seqWrite seqAdvance
  rw [if_neg (by simpa using hx.ge), if_neg (by simpa using hy.ge)]

/-! ### Runs of whole phases -/

theorem seqAccesses_of_neigh (hp : s.ph = .neigh) :
    seqAccesses s = neighbourReads s.front s.cx.toNat s.cy.toNat s.k.toNat s.side s.policy := by
  unfold seqAccesses; rw [hp]

/-- NEIGH from offset K on: the reads of the neighbours K to 7, then WRITE. -/
theorem microRun_neighbours (d : Nat) (hi : InDomain s) (hp : s.ph = .neigh) (hd : s.k.toNat + d = 7) :
    ∃ c, MicroRun (d + 1) s
      ((List.range' s.k.toNat (d + 1)).flatMap fun k =>
        neighbourReads s.front s.cx.toNat s.cy.toNat k s.side s.policy)
      { s with k := 7#3, cnt := c, ph := .write } := by
  induction d generalizing s with
  | zero =>
    have hk : s.k = 7#3 := BitVec.eq_of_toNat_eq hd
    have hrun := MicroRun.single (by rw [hp]; rfl) (seqStep_of_neigh hi hp)
    rw [seqAccesses_of_neigh hp, seqNeigh_of_k_last (by omega)] at hrun
    exact ⟨(seqNeigh s).cnt, by simpa [← hk] using hrun⟩
  | succ d ih =>
    have hlt : s.k.toNat < 7 := by omega
    have hp' : (seqNeigh s).ph = .neigh := by rw [seqNeigh_ph, if_pos hlt, hp]
    have hk' := seqNeigh_k_toNat hlt
    obtain ⟨c, hrest⟩ := ih (inDomain_seqNeigh hi hp) hp' (by omega)
    have hrun := MicroRun.more (by rw [hp]; rfl) (seqStep_of_neigh hi hp) hrest
    rw [seqAccesses_of_neigh hp, hk'] at hrun
    rw [seqNeigh_of_k_lt hlt] at hrun
    exact ⟨c, by rw [List.range'_succ]; exact hrun⟩

/-- The state in which WRITE finds the current cell scanned, with the count `c` (R100). -/
def scanned (s : State) (c : BitVec 4) : State := { seqCenter s with k := 7#3, cnt := c, ph := .write }

/-- One cell of an EVOLVE: CENTER, eight times NEIGH, WRITE, with the accesses R36 lists for the cell. -/
theorem microRun_cell (hi : InDomain s) (hp : s.ph = .center) :
    ∃ c, MicroRun 10 s (evolveCellAccesses s.front s.cx.toNat s.cy.toNat s.side s.policy) (seqWrite (scanned s c)) := by
  have hcenter := MicroRun.single (by rw [hp]; rfl) (seqStep_of_center hi hp)
  obtain ⟨c, hneigh⟩ := microRun_neighbours 7 (inDomain_seqCenter hi hp) rfl rfl
  have hscan := hcenter.trans hneigh
  have hwrite := MicroRun.single rfl (seqStep_of_write (hscan.inDomain hi) rfl)
  have haccs : seqAccesses s = [.read s.front (byteIndex s.cx.toNat s.cy.toNat s.side)] := by
    unfold seqAccesses; rw [hp]
  rw [haccs] at hscan
  exact ⟨c, hscan.trans hwrite⟩

/-- Where the last WRITE of the row of `s` leads: to the first cell of the next row, or to SWAP (R100, R101). -/
def AfterRow (s t : State) : Prop :=
  (s.cy.toNat + 1 < s.side → t.ph = .center ∧ t.cx = 0#6 ∧ t.cy.toNat = s.cy.toNat + 1) ∧
  (s.cy.toNat + 1 = s.side → t.ph = .swap)

/-- One row of an EVOLVE from column CX on: the accesses of its cells. -/
theorem microRun_row_from (d : Nat) (hi : InDomain s) (hp : s.ph = .center) (hd : s.cx.toNat + 1 + d = s.side) :
    ∃ t, MicroRun (10 * (d + 1)) s
      ((List.range' s.cx.toNat (d + 1)).flatMap fun x => evolveCellAccesses s.front x s.cy.toNat s.side s.policy) t ∧
      AfterRow s t := by
  induction d generalizing s with
  | zero =>
    obtain ⟨c, hcell⟩ := microRun_cell hi hp
    exact ⟨seqWrite (scanned s c), by simpa using hcell, seqWrite_next_row (s := scanned s c) hi.n8_le_eight hd,
      seqWrite_last_cell (s := scanned s c) hd⟩
  | succ d ih =>
    obtain ⟨c, hcell⟩ := microRun_cell hi hp
    have hi' := hcell.inDomain hi
    obtain ⟨hp', hx', hy'⟩ := seqWrite_next_column (s := scanned s c) hi.n8_le_eight
      (show s.cx.toNat + 1 < s.side by omega)
    obtain ⟨hn8, hpolicy, hfront⟩ := hcell.keeps_cfg_and_front (by rw [hp']; rfl)
    have hside : (seqWrite (scanned s c)).side = s.side := congrArg sideOf hn8
    obtain ⟨t, hrest, hend⟩ := ih hi' hp' (by rw [hx', hside, ← hd]; exact Nat.add_right_comm _ _ _)
    rw [hx', hy', hside, hpolicy, hfront] at hrest
    rw [AfterRow, hy', hside] at hend
    refine ⟨t, ?_, hend⟩
    rw [List.range'_succ, List.flatMap_cons, Nat.mul_succ, Nat.add_comm]
    exact hcell.trans hrest

/-- One whole row of an EVOLVE. -/
theorem microRun_row (hi : InDomain s) (hp : s.ph = .center) (hx : s.cx = 0#6) :
    ∃ t, MicroRun (10 * s.side) s
      ((List.range s.side).flatMap fun x => evolveCellAccesses s.front x s.cy.toNat s.side s.policy) t ∧
      AfterRow s t := by
  have hx0 : s.cx.toNat = 0 := by rw [hx]; rfl
  have hpos : 0 < s.side := Nat.zero_lt_of_lt (hi.cell (.inl hp)).1
  have hrow := microRun_row_from (s.side - 1) hi hp (by omega)
  rwa [Nat.sub_add_cancel hpos, hx0, ← List.range_eq_range'] at hrow

/-- The scan from the first cell of row CY on: the accesses of every row, then SWAP. -/
theorem microRun_rows_from (d : Nat) (hi : InDomain s) (hp : s.ph = .center) (hx : s.cx = 0#6)
    (hd : s.cy.toNat + 1 + d = s.side) :
    ∃ t, MicroRun (10 * s.side * (d + 1)) s
      ((List.range' s.cy.toNat (d + 1)).flatMap fun y => (List.range s.side).flatMap fun x =>
        evolveCellAccesses s.front x y s.side s.policy) t ∧ t.ph = .swap := by
  induction d generalizing s with
  | zero =>
    obtain ⟨t, hrow, -, hlast⟩ := microRun_row hi hp hx
    exact ⟨t, by simpa using hrow, hlast hd⟩
  | succ d ih =>
    obtain ⟨t, hrow, hnext, -⟩ := microRun_row hi hp hx
    obtain ⟨hp', hx', hy'⟩ := hnext (by omega)
    obtain ⟨hn8, hpolicy, hfront⟩ := hrow.keeps_cfg_and_front (by rw [hp']; rfl)
    have hside : t.side = s.side := congrArg sideOf hn8
    obtain ⟨u, hrest, hend⟩ := ih (hrow.inDomain hi) hp' hx' (by omega)
    rw [hy', hside, hpolicy, hfront] at hrest
    refine ⟨u, ?_, hend⟩
    rw [List.range'_succ, List.flatMap_cons, Nat.mul_succ, Nat.add_comm]
    exact hrow.trans hrest

end Sys2Proof.Machine
end

section
/-! PROOFS. The accesses of 20_memory.md R36 and their order (R101). -/

namespace Sys2Proof.Machine

variable {s : State}

theorem inDomain_startEvolve (h1 : 1 ≤ s.n8.toNat) (h8 : s.n8.toNat ≤ 8) : InDomain (startEvolve s) := by
  have hside : 0 < sideOf s.n8 := by unfold sideOf; omega
  exact ⟨h1, h8, fun _ => ⟨hside, hside⟩⟩

/-- A configured block accepts EVOLVE (R99, R100). -/
theorem exec_evolve_of_configured (hc : Configured s) : exec .evolve s = .next (startEvolve s) := by
  obtain ⟨hf, -, h1, -⟩ := hc
  have hn : s.n8 ≠ 0#4 := fun h0 => by simp [h0] at h1
  simp [exec, execEvolve, serve, hf, hn]

/-- All micro-steps of a configured block's EVOLVE but SWAP, with all its accesses. -/
theorem microRun_scan (hc : Configured s) :
    ∃ t, MicroRun (10 * (s.side * s.side)) (startEvolve s) (evolveAccesses s.front s.side s.policy) t ∧
      t.ph = .swap := by
  obtain ⟨-, -, h1, h8⟩ := hc
  have hside : s.side - 1 + 1 = s.side := by unfold State.side sideOf; omega
  have hscan := microRun_rows_from (s.side - 1) (inDomain_startEvolve h1 h8) rfl rfl
    (show 0 + 1 + (s.side - 1) = s.side by omega)
  rw [hside, Nat.mul_assoc] at hscan
  simpa [evolveAccesses, ← List.range_eq_range', State.side] using hscan

/-- Settles O27: the scan makes every listed access, and SWAP makes none. -/
theorem evolveMakesTheListedAccesses : Obligations.EvolveMakesTheListedAccesses := by
  intro s hc
  refine ⟨_, exec_evolve_of_configured hc, ?_⟩
  obtain ⟨t, hscan, hp⟩ := microRun_scan hc
  have hswap := MicroRun.single (by rw [hp]; rfl) (seqStep_of_swap hp)
  have hnone : seqAccesses t = [] := by unfold seqAccesses; rw [hp]
  have hrun := (hscan.trans hswap).traceAccesses_eq
  rwa [hnone, List.append_nil] at hrun

end Sys2Proof.Machine
end

section
/-! PROOFS. What the commands and the micro-steps leave unchanged (20_memory.md R36 to R38). -/

namespace Sys2Proof.Machine

variable {s t : State}

/-- A byte write changes nothing but the two banks' bytes. -/
theorem writeByte_eq (s : State) (b : Bank) (i : Idx) (v : Byte) :
    writeByte s b i v = { s with g0 := (writeByte s b i v).g0, g1 := (writeByte s b i v).g1 } := by
  cases b <;> rfl

/-- A byte other than the one written reads as before. -/
theorem readByte_writeByte_other {b c : Bank} {i j : Idx} {v : Byte} (h : ¬(c = b ∧ j = i)) :
    readByte (writeByte s b i v) c j = readByte s c j := by
  rw [readByte_writeByte, if_neg h]

/-- A byte other than the cell's own reads as before after cell_set (R74). -/
theorem readByte_setCell_other {b c : Bank} {x y n : Nat} {v : Bool} {j : Idx} (h : ¬(c = b ∧ j = byteIndex x y n)) :
    readByte (setCell s b x y n v) c j = readByte s c j := by
  rw [readByte_setCell, if_neg h]

/-- Settles O22: each of the four only responds, unless it takes a fault. -/
theorem readingCommandsFrame : Obligations.ReadingCommandsFrame := by
  intro i s t hi h hf
  rcases hi with rfl | rfl | ⟨x, y, rfl⟩ | ⟨idx, rfl⟩
  · rcases execNop_cases h with ⟨-, rfl⟩ | ⟨-, rfl⟩ <;> exact ⟨_, rfl⟩
  · exact ⟨_, execStat_cases h⟩
  · rcases execRdpx_cases h with ⟨-, rfl⟩ | ⟨hs, ⟨-, rfl⟩ | ⟨-, -, rfl⟩ | ⟨-, rfl⟩⟩
    · exact ⟨_, rfl⟩
    · simp [hs] at hf
    · simp [hs] at hf
    · exact ⟨_, rfl⟩
  · rcases execRdb_cases h with ⟨-, rfl⟩ | ⟨-, rfl⟩ <;> exact ⟨_, rfl⟩

/-- WRPX's frame (R77). -/
theorem execWrpx_frame {x y : Coord} {v : Bool} (h : execWrpx x y v s = .next t) :
    (∀ (b : Bank) (i : Idx), ¬(b = s.front ∧ i = byteIndex x.toNat y.toNat (sideOf s.n8)) →
      readByte t b i = readByte s b i) ∧
    t = { s with g0 := t.g0, g1 := t.g1, fault := t.fault, cause := t.cause, ph := t.ph, responses := t.responses } ∧
    (t.fault = s.fault → t.cause = s.cause ∧ t.ph = s.ph) := by
  rcases execWrpx_cases h with ⟨-, rfl⟩ | ⟨hs, ⟨-, rfl⟩ | ⟨-, -, rfl⟩ | ⟨-, rfl⟩⟩
  · exact ⟨fun _ _ _ => rfl, rfl, fun _ => ⟨rfl, rfl⟩⟩
  · exact ⟨fun _ _ _ => rfl, rfl, by simp [hs]⟩
  · exact ⟨fun _ _ _ => rfl, rfl, by simp [hs]⟩
  · refine ⟨fun b i hne => readByte_setCell_other hne, ?_, by simp⟩
    rw [setCell, writeByte_eq]; rfl

/-- LDB's frame (R78). -/
theorem execLdb_frame {idx : Idx} {data : Byte} (h : execLdb idx data s = .next t) :
    (∀ (b : Bank) (i : Idx), ¬(b = s.front ∧ i = idx) → readByte t b i = readByte s b i) ∧
    t = { s with g0 := t.g0, g1 := t.g1, responses := t.responses } := by
  rcases execLdb_cases h with ⟨-, rfl⟩ | ⟨-, rfl⟩
  · exact ⟨fun _ _ _ => rfl, rfl⟩
  · refine ⟨fun b i hne => readByte_writeByte_other hne, ?_⟩
    rw [writeByte_eq]; rfl

/-- Settles O23: cell_set and the byte write change one byte, and only a fault of WRPX writes a register. -/
theorem storingCommandsFrame : Obligations.StoringCommandsFrame :=
  ⟨fun _ _ _ _ _ h => execWrpx_frame h, fun _ _ _ _ h => execLdb_frame h⟩

/-- A micro-step changes no byte but the one WRITE stores in the back bank (R38, R159). -/
theorem readByte_seqStep (h : seqStep s = .next t) (b : Bank) (i : Idx)
    (hne : ¬(s.ph = .write ∧ b = !s.front ∧ i = byteIndex s.cx.toNat s.cy.toNat (sideOf s.n8))) :
    readByte t b i = readByte s b i := by
  rcases seqStep_cases h with ⟨-, -, rfl⟩ | ⟨-, -, rfl⟩ | ⟨hp, -, rfl⟩ | ⟨-, rfl⟩ | ⟨-, rfl⟩
  · rfl
  · rw [readByte_seqNeigh]
  · rw [readByte_seqWrite]
    exact readByte_setCell_other fun hbi => hne ⟨hp, hbi⟩
  · rfl
  · rfl

theorem seqStep_resets (h : seqStep s = .next t) : t.resets = s.resets := by
  rcases seqStep_cases h with ⟨-, -, rfl⟩ | ⟨-, -, rfl⟩ | ⟨-, -, rfl⟩ | ⟨-, rfl⟩ | ⟨-, rfl⟩ <;> simp

/-- A micro-step other than SWAP delivers no response (R100). -/
theorem seqStep_keeps_responses (h : seqStep s = .next t) (hp : s.ph ≠ .swap) : t.responses = s.responses := by
  rcases seqStep_cases h with ⟨-, -, rfl⟩ | ⟨-, -, rfl⟩ | ⟨-, -, rfl⟩ | ⟨hs, -⟩ | ⟨-, rfl⟩
  · simp
  · simp
  · simp
  · exact absurd hs hp
  · rfl

/-- Settles O25: WRITE's cell_set is the only byte write, in the back bank, and SWAP alone inverts FRONT and responds. -/
theorem microStepFrame : Obligations.MicroStepFrame := by
  intro s t h
  obtain ⟨hn8, hpolicy, hfault, hcause⟩ := seqStep_keeps_cfg_and_fault h
  refine ⟨fun i => readByte_seqStep h _ i (by simp), fun i hne => readByte_seqStep h _ i (by simpa using hne),
    hn8, hpolicy, hfault, hcause, seqStep_resets h, seqStep_pending h,
    fun hp => ⟨seqStep_keeps_front h hp, seqStep_keeps_responses h hp⟩, fun hp => ?_⟩
  obtain rfl : seqSwap s = t := by simpa [seqStep_of_swap hp] using h
  exact ⟨rfl, rfl⟩

/-- A command changes no byte that it does not list as written (R36). -/
theorem readByte_exec_of_not_listed {i : Instr} (h : exec i s = .next t) {b : Bank} {j : Idx}
    (hne : Access.write b j ∉ instrAccesses i s) : readByte t b j = readByte s b j := by
  rcases exec_cases h with ⟨-, -, rfl⟩ | ⟨c, -, rfl⟩ | ⟨-, rfl⟩ | ⟨-, -, rfl⟩ | ⟨_, _, -, -, -, rfl⟩ |
    ⟨x, y, v, rfl, hf, hd, rfl⟩ | ⟨idx, data, rfl, hf, rfl⟩ | ⟨_, -, -, rfl⟩ | ⟨p, m, -, -, -, -, rfl⟩ | ⟨-, -, -, rfl⟩
  · rfl
  · rfl
  · rfl
  · rfl
  · rfl
  · exact readByte_setCell_other (by simpa [instrAccesses, cellServed, hf, hd] using hne)
  · exact readByte_writeByte_other (by simpa [instrAccesses, hf] using hne)
  · rfl
  · rfl
  · rfl

/-- A micro-step changes no byte that it does not list as written (R36). -/
theorem readByte_seqStep_of_not_listed (h : seqStep s = .next t) {b : Bank} {j : Idx}
    (hne : Access.write b j ∉ seqAccesses s) : readByte t b j = readByte s b j := by
  refine readByte_seqStep h b j fun ⟨hp, hbj⟩ => hne ?_
  obtain ⟨rfl, rfl⟩ := hbj
  simp [seqAccesses, hp, cellWrites]

/-- A host command addresses the front bank only (R30). -/
theorem bank_of_mem_instrAccesses {i : Instr} {b : Bank} {j : Idx}
    (h : Access.read b j ∈ instrAccesses i s ∨ Access.write b j ∈ instrAccesses i s) : b = s.front := by
  cases i with
  | nop => simp [instrAccesses] at h
  | rdpx x y => by_cases hc : cellServed s x y = true <;> simp [instrAccesses, hc] at h; exact h.1
  | wrpx x y v => by_cases hc : cellServed s x y = true <;> simp [instrAccesses, hc] at h; exact h.1
  | ldb idx data => by_cases hf : s.fault = true <;> simp [instrAccesses, hf] at h; exact h.1
  | rdb idx => by_cases hf : s.fault = true <;> simp [instrAccesses, hf] at h; exact h.1
  | cfg p m => simp [instrAccesses] at h
  | evolve => simp [instrAccesses] at h
  | stat => simp [instrAccesses] at h

/-- Settles O26: the byte a store changes is listed as written, for commands and for WRITE. -/
theorem changedBytesAreListedAccesses : Obligations.ChangedBytesAreListedAccesses :=
  ⟨fun _ _ _ _ _ h => readByte_exec_of_not_listed h, fun _ _ _ _ h => readByte_seqStep_of_not_listed h,
    fun _ _ _ _ => bank_of_mem_instrAccesses⟩

end Sys2Proof.Machine
end

section
/-! PROOFS. The codec as a map between cells and bits (20_memory.md R31, R42). -/

namespace Sys2Proof.Machine

/-- GRIDB of a legal side: N rows of N/8 bytes (R5). -/
theorem gridBytes_eq (m : Nat) : gridBytes (8 * m) = 8 * m * m := by
  rw [gridBytes, Nat.mul_left_comm, Nat.mul_div_cancel_left _ (by decide), Nat.mul_comm]

theorem rowBytes_eq (m : Nat) : rowBytes (8 * m) = m := Nat.mul_div_cancel_left m (by decide)

/-- From a bit of the grid's bytes to its cell and back (R42). -/
theorem codec_right_inverse {m b : Nat} {idx : Idx} (h1 : 1 ≤ m) (hi : idx.toNat < gridBytes (8 * m)) (hb : b < 8) :
    cellColumn idx.toNat b (8 * m) < 8 * m ∧ cellRow idx.toNat (8 * m) < 8 * m ∧
    byteIndex (cellColumn idx.toNat b (8 * m)) (cellRow idx.toNat (8 * m)) (8 * m) = idx ∧
    bitIndex (cellColumn idx.toNat b (8 * m)) = b := by
  have hmod : idx.toNat % m < m := Nat.mod_lt _ h1
  have hdm : idx.toNat / m * m + idx.toNat % m = idx.toNat := Nat.div_add_mod' _ _
  have hcol : (8 * (idx.toNat % m) + b) / 8 = idx.toNat % m := by omega
  rw [gridBytes_eq] at hi
  simp only [cellColumn, cellRow, rowBytes_eq, bitIndex]
  refine ⟨by omega, Nat.div_lt_of_lt_mul (by rwa [Nat.mul_comm]), ?_, by omega⟩
  rw [byteIndex, hcol, Nat.mul_div_cancel_left m (by decide), hdm, BitVec.ofNat_toNat, BitVec.setWidth_eq]

/-- From a cell to its bit and back (R42). -/
theorem codec_left_inverse {m x y : Nat} (h8 : m ≤ 8) (hx : x < 8 * m) (hy : y < 8 * m) :
    (byteIndex x y (8 * m)).toNat < gridBytes (8 * m) ∧
    cellColumn (byteIndex x y (8 * m)).toNat (bitIndex x) (8 * m) = x ∧
    cellRow (byteIndex x y (8 * m)).toNat (8 * m) = y := by
  have hxm : x / 8 < m := by omega
  rw [byteIndex_toNat m x y h8 hx hy, gridBytes_eq]
  simp only [cellColumn, cellRow, rowBytes_eq, bitIndex]
  refine ⟨?_, ?_, ?_⟩
  · calc y * m + x / 8 < y * m + m := by omega
      _ = (y + 1) * m := by ring
      _ ≤ 8 * m * m := Nat.mul_le_mul_right _ hy
  · rw [Nat.mul_add_mod_of_lt hxm]; omega
  · rw [Nat.mul_comm, Nat.mul_add_div (by omega), Nat.div_eq_of_lt hxm, Nat.add_zero]

/-- Settles O44: each of the two maps undoes the other. -/
theorem codecIsABijection : Obligations.CodecIsABijection :=
  fun _ h1 h8 => ⟨fun _ _ hi hb => codec_right_inverse h1 hi hb, fun _ _ hx hy => codec_left_inverse h8 hx hy⟩

/-- The first eight cells of row 0 lie in byte 0 (R31). -/
theorem byteIndex_first {x : Nat} (n : Nat) (hx : x < 8) : byteIndex x 0 n = 0 := by
  simp [byteIndex, Nat.div_eq_of_lt hx]

/-- Settles O47: cell_get is that bit, and row 0's first eight cells have byte index 0. -/
theorem cellsAreMostSignificantBitFirst : Obligations.CellsAreMostSignificantBitFirst := by
  intro s b m x y _ _ _ _
  refine ⟨cellGet_eq_bit _ _ _ _, fun hx => ?_⟩
  rw [getCell, cellGet_eq_bit, byteIndex_first _ hx, Nat.mod_eq_of_lt hx]

end Sys2Proof.Machine
end

section
/-! PROOFS. A command at the command level, and reads after writes there (20_memory.md R39 (a)). -/

namespace Sys2Proof

/-! ### The fields of an encoded word (R56) -/

theorem fields_formatP (op : BitVec 4) (v : Bool) (y x : Coord) :
    fieldX (formatP op v y x) = x ∧ fieldY (formatP op v y x) = y ∧ fieldV (formatP op v y x) = v ∧
    fieldPz (formatP op v y x) = 0#4 := by
  have hw := formatP_toNat op v y x
  have hv := v.toNat_lt
  have hy := y.isLt
  have hx := x.isLt
  refine ⟨BitVec.eq_of_toNat_eq ?_, BitVec.eq_of_toNat_eq ?_, ?_, BitVec.eq_of_toNat_eq ?_⟩
  · rw [fieldX_toNat]; omega
  · rw [fieldY_toNat]; omega
  · simp only [fieldV, formatP, BitVec.getLsbD_append]; simp
  · rw [fieldPz_toNat]; show _ = 0; omega

theorem fields_formatB (op : BitVec 4) (idx : Idx) (data : Byte) :
    fieldIdx (formatB op idx data) = idx ∧ fieldData (formatB op idx data) = data := by
  have hw := formatB_toNat op idx data
  have hi := idx.isLt
  have hd := data.isLt
  refine ⟨BitVec.eq_of_toNat_eq ?_, BitVec.eq_of_toNat_eq ?_⟩
  · rw [fieldIdx_toNat]; omega
  · rw [fieldData_toNat]; omega

/-! ### The four memory commands decode to themselves (R58) -/

theorem decode_encode_rdpx (x y : Coord) : decode (encode (.rdpx x y)) = .legal (.rdpx x y) := by
  obtain ⟨hop, hrz⟩ := Laws.RowWord.op_rz_formatP 1#4 false y x
  obtain ⟨hx, hy, hv, hpz⟩ := fields_formatP 1#4 false y x
  simp [encode, decode, decodeRdpx, hop, hrz, hx, hy, hv, hpz]

theorem decode_encode_wrpx (x y : Coord) (v : Bool) : decode (encode (.wrpx x y v)) = .legal (.wrpx x y v) := by
  obtain ⟨hop, hrz⟩ := Laws.RowWord.op_rz_formatP 2#4 v y x
  obtain ⟨hx, hy, hv, hpz⟩ := fields_formatP 2#4 v y x
  simp [encode, decode, decodeWrpx, hop, hrz, hx, hy, hv, hpz]

theorem decode_encode_ldb (idx : Idx) (data : Byte) : decode (encode (.ldb idx data)) = .legal (.ldb idx data) := by
  obtain ⟨hop, hrz⟩ := Laws.RowWord.op_rz_formatB 3#4 idx data
  obtain ⟨hidx, hdata⟩ := fields_formatB 3#4 idx data
  simp [encode, decode, decodeLdb, hop, hrz, hidx, hdata]

theorem decode_encode_rdb (idx : Idx) : decode (encode (.rdb idx)) = .legal (.rdb idx) := by
  obtain ⟨hop, hrz⟩ := Laws.RowWord.op_rz_formatB 4#4 idx 0#8
  obtain ⟨hidx, hdata⟩ := fields_formatB 4#4 idx 0#8
  simp [encode, decode, decodeRdb, hop, hrz, hidx, hdata]

end Sys2Proof

namespace Sys2Proof.Machine

variable {s t : State}

/-- A command whose execution starts no EVOLVE is one acceptance (R60). -/
theorem runCommand_of_exec {w : CmdWord} {i : Instr} (hw : decode w = .legal i) (hb : s.ph.busy = false)
    (h : exec i s = .next t) (hb' : t.ph.busy = false) : runCommand w s = .next t := by
  simp [runCommand, settle_idle _ hb, accept, hw, h, settle_idle _ hb']

theorem runCommands_pair {w w' : CmdWord} {u : State} (h : runCommand w s = .next t) (h' : runCommand w' t = .next u) :
    runCommands [w, w'] s = .next u := by
  simp [runCommands, h, h']

/-! ### The memory commands outside the fault state -/

theorem exec_ldb (hf : s.fault = false) (idx : Idx) (data : Byte) :
    exec (.ldb idx data) s = .next (respondDone (writeByte s s.front idx data)) := by
  simp [exec, execLdb, serve, hf]

theorem exec_rdb (hf : s.fault = false) (idx : Idx) :
    exec (.rdb idx) s = .next (respond s false (zext16 (readByte s s.front idx))) := by
  simp [exec, execRdb, serve, hf]

/-- Inside the codec's domain none of the checks of RDPX and WRPX fires (R76, R77). -/
theorem withCell_of_codecDefined {x y : Coord} {body : State → State}
    (hd : codecDefined s.n8 x.toNat y.toNat = true) : withCell x y s body = .next (body s) := by
  obtain ⟨h1, -, hx, hy⟩ := (codecDefined_iff _ _ _).1 hd
  have hn : s.n8 ≠ 0#4 := fun h0 => by simp [h0] at h1
  have hr : inRange x.toNat y.toNat (sideOf s.n8) = true := by simp [inRange, sideOf, hx, hy]
  simp [withCell, hn, hr, hd]

theorem exec_rdpx (hf : s.fault = false) {x y : Coord} (hd : codecDefined s.n8 x.toNat y.toNat = true) :
    exec (.rdpx x y) s =
      .next (respond s false (zext16 (BitVec.ofBool (getCell s s.front x.toNat y.toNat s.side)))) := by
  simp [exec, execRdpx, serve, hf, withCell_of_codecDefined hd]

theorem exec_wrpx (hf : s.fault = false) {x y : Coord} (v : Bool) (hd : codecDefined s.n8 x.toNat y.toNat = true) :
    exec (.wrpx x y v) s = .next (respondDone (setCell s s.front x.toNat y.toNat s.side v)) := by
  simp [exec, execWrpx, serve, hf, withCell_of_codecDefined hd]

@[simp] theorem getCell_respondDone (s : State) : getCell (respondDone s) = getCell s := rfl

/-- cell_get of the cell that cell_set wrote (R75 (a)). -/
@[simp] theorem getCell_setCell_same (s : State) (b : Bank) (x y n : Nat) (v : Bool) :
    getCell (setCell s b x y n v) b x y n = v := by
  have hpos : 7 - x % 8 < 8 := by omega
  rw [getCell, cellGet_eq_bit, readByte_setCell, if_pos ⟨rfl, rfl⟩, cellByte_bit _ _ _ _ hpos, if_pos rfl]

/-- RDB after LDB of the same index (R39 (a)). -/
theorem runCommands_ldb_rdb (hp : s.ph = .idle) (hf : s.fault = false) (idx : Idx) (data : Byte) :
    ∃ t, runCommands [encode (.ldb idx data), encode (.rdb idx)] s = .next t ∧
      t.responses = s.responses ++ [⟨false, 0x0000⟩, ⟨false, BitVec.ofNat 16 data.toNat⟩] := by
  have hb : s.ph.busy = false := by rw [hp]; rfl
  have hstore := runCommand_of_exec (decode_encode_ldb idx data) hb (exec_ldb hf idx data) (by simp [hb])
  have hload := runCommand_of_exec (decode_encode_rdb idx) (s := respondDone (writeByte s s.front idx data))
    (by simp [hb]) (exec_rdb (by simp [hf]) idx) (by simp [hb])
  refine ⟨_, runCommands_pair hstore hload, ?_⟩
  simp [zext16]

/-- RDPX after WRPX of the same cell (R39 (a)). -/
theorem runCommands_wrpx_rdpx (hp : s.ph = .idle) (hf : s.fault = false) {x y : Coord}
    (hd : codecDefined s.n8 x.toNat y.toNat = true) (v : Bool) :
    ∃ t, runCommands [encode (.wrpx x y v), encode (.rdpx x y)] s = .next t ∧
      t.responses = s.responses ++ [⟨false, 0x0000⟩, ⟨false, if v then 0x0001 else 0x0000⟩] := by
  have hb : s.ph.busy = false := by rw [hp]; rfl
  have hstore := runCommand_of_exec (decode_encode_wrpx x y v) hb (exec_wrpx hf v hd) (by simp [hb])
  have hload := runCommand_of_exec (decode_encode_rdpx x y)
    (s := respondDone (setCell s s.front x.toNat y.toNat s.side v))
    (by simp [hb]) (exec_rdpx (by simp [hf]) (by simpa using hd))
    (by simp [hb])
  refine ⟨_, runCommands_pair hstore hload, ?_⟩
  have hcell : zext16 (BitVec.ofBool v) = if v then 0x0001 else 0x0000 := by cases v <;> rfl
  simp [State.side, hcell]

/-- Settles O48: the read command answers from the byte or cell the store command has just written. -/
theorem readsSeeTheLatestWrite : Obligations.ReadsSeeTheLatestWrite := by
  refine ⟨fun s idx data hp hf => runCommands_ldb_rdb hp hf idx data, fun s x y v hc hx hy => ?_⟩
  obtain ⟨hf, hp, h1, h8⟩ := hc
  exact runCommands_wrpx_rdpx hp hf ((codecDefined_iff _ _ _).2 ⟨h1, h8, hx, hy⟩) v

end Sys2Proof.Machine
end

section
/-! PROOFS. The decoder as a relation between a word's fields and a command (30_encoding.md R50 to R58). -/

namespace Sys2Proof

/-- The fields that a word of command `i` has: the row's opcode, every reserved field 0, the operands where the format puts
them (R51 to R57). -/
inductive HasFields (w : CmdWord) : Instr → Prop where
  | nop (hrz : fieldRz w = 0#3) (hop : fieldOp w = 0x0#4) (hzz : fieldZz w = 0#17) : HasFields w .nop
  | rdpx (hrz : fieldRz w = 0#3) (hop : fieldOp w = 0x1#4) (hpz : fieldPz w = 0#4) (hv : fieldV w = false) :
      HasFields w (.rdpx (fieldX w) (fieldY w))
  | wrpx (hrz : fieldRz w = 0#3) (hop : fieldOp w = 0x2#4) (hpz : fieldPz w = 0#4) :
      HasFields w (.wrpx (fieldX w) (fieldY w) (fieldV w))
  | ldb (hrz : fieldRz w = 0#3) (hop : fieldOp w = 0x3#4) : HasFields w (.ldb (fieldIdx w) (fieldData w))
  | rdb (hrz : fieldRz w = 0#3) (hop : fieldOp w = 0x4#4) (hdata : fieldData w = 0#8) :
      HasFields w (.rdb (fieldIdx w))
  | cfg (hrz : fieldRz w = 0#3) (hop : fieldOp w = 0x5#4) (hcz : fieldCz w = 0#12) :
      HasFields w (.cfg (fieldPolicy w) (fieldN8 w))
  | evolve (hrz : fieldRz w = 0#3) (hop : fieldOp w = 0x6#4) (hzz : fieldZz w = 0#17) : HasFields w .evolve
  | stat (hrz : fieldRz w = 0#3) (hop : fieldOp w = 0x7#4) (hzz : fieldZz w = 0#17) : HasFields w .stat

variable {w : CmdWord} {i : Instr}

theorem decodeZ_eq_legal {j : Instr} (h : decodeZ j w = .legal i) : fieldZz w = 0#17 ∧ i = j := by
  unfold decodeZ at h
  split at h
  · next hzz => exact ⟨hzz, by simpa using h.symm⟩
  · cases h

theorem decodeRdpx_eq_legal (h : decodeRdpx w = .legal i) :
    fieldPz w = 0#4 ∧ fieldV w = false ∧ i = .rdpx (fieldX w) (fieldY w) := by
  unfold decodeRdpx at h
  split at h
  · cases h
  · next hpz =>
    split at h
    · cases h
    · next hv => exact ⟨not_not.mp hpz, by simpa using hv, by simpa using h.symm⟩

theorem decodeWrpx_eq_legal (h : decodeWrpx w = .legal i) :
    fieldPz w = 0#4 ∧ i = .wrpx (fieldX w) (fieldY w) (fieldV w) := by
  unfold decodeWrpx at h
  split at h
  · cases h
  · next hpz => exact ⟨not_not.mp hpz, by simpa using h.symm⟩

theorem decodeRdb_eq_legal (h : decodeRdb w = .legal i) : fieldData w = 0#8 ∧ i = .rdb (fieldIdx w) := by
  unfold decodeRdb at h
  split at h
  · cases h
  · next hdata => exact ⟨not_not.mp hdata, by simpa using h.symm⟩

theorem decodeCfg_eq_legal (h : decodeCfg w = .legal i) :
    fieldCz w = 0#12 ∧ i = .cfg (fieldPolicy w) (fieldN8 w) := by
  unfold decodeCfg at h
  split at h
  · cases h
  · next hcz => exact ⟨not_not.mp hcz, by simpa using h.symm⟩

/-- The decoder's nine tests on op, with the command each row gives. -/
theorem hasFields_of_decode (h : decode w = .legal i) : HasFields w i := by
  unfold decode at h
  split at h
  · cases h
  next hrz =>
  rw [ne_eq, not_not] at hrz
  split at h
  · next hop => obtain ⟨hzz, rfl⟩ := decodeZ_eq_legal h; exact .nop hrz hop hzz
  split at h
  · next hop => obtain ⟨hpz, hv, rfl⟩ := decodeRdpx_eq_legal h; exact .rdpx hrz hop hpz hv
  split at h
  · next hop => obtain ⟨hpz, rfl⟩ := decodeWrpx_eq_legal h; exact .wrpx hrz hop hpz
  split at h
  · next hop => obtain rfl : Instr.ldb (fieldIdx w) (fieldData w) = i := by simpa [decodeLdb] using h
                exact .ldb hrz hop
  split at h
  · next hop => obtain ⟨hdata, rfl⟩ := decodeRdb_eq_legal h; exact .rdb hrz hop hdata
  split at h
  · next hop => obtain ⟨hcz, rfl⟩ := decodeCfg_eq_legal h; exact .cfg hrz hop hcz
  split at h
  · next hop => obtain ⟨hzz, rfl⟩ := decodeZ_eq_legal h; exact .evolve hrz hop hzz
  split at h
  · next hop => obtain ⟨hzz, rfl⟩ := decodeZ_eq_legal h; exact .stat hrz hop hzz
  · cases h

theorem HasFields.decode_eq (h : HasFields w i) : decode w = .legal i := by
  cases h with
  | nop hrz hop hzz => simp [decode, decodeZ, hrz, hop, hzz]
  | rdpx hrz hop hpz hv => simp [decode, decodeRdpx, hrz, hop, hpz, hv]
  | wrpx hrz hop hpz => simp [decode, decodeWrpx, hrz, hop, hpz]
  | ldb hrz hop => simp [decode, decodeLdb, hrz, hop]
  | rdb hrz hop hdata => simp [decode, decodeRdb, hrz, hop, hdata]
  | cfg hrz hop hcz => simp [decode, decodeCfg, hrz, hop, hcz]
  | evolve hrz hop hzz => simp [decode, decodeZ, hrz, hop, hzz]
  | stat hrz hop hzz => simp [decode, decodeZ, hrz, hop, hzz]

/-! ### A field that is 0, as arithmetic on the word -/

theorem fieldRz_eq_zero : fieldRz w = 0#3 ↔ w.toNat / 2 ^ 17 % 8 = 0 := by rw [← BitVec.toNat_inj, fieldRz_toNat]; rfl
theorem fieldPz_eq_zero : fieldPz w = 0#4 ↔ w.toNat / 2 ^ 13 % 16 = 0 := by rw [← BitVec.toNat_inj, fieldPz_toNat]; rfl
theorem fieldData_eq_zero : fieldData w = 0#8 ↔ w.toNat % 256 = 0 := by rw [← BitVec.toNat_inj, fieldData_toNat]; rfl
theorem fieldCz_eq_zero : fieldCz w = 0#12 ↔ w.toNat / 2 ^ 5 % 4096 = 0 := by rw [← BitVec.toNat_inj, fieldCz_toNat]; rfl
theorem fieldZz_eq_zero : fieldZz w = 0#17 ↔ w.toNat % 2 ^ 17 = 0 := by rw [← BitVec.toNat_inj, fieldZz_toNat]; rfl
theorem fieldV_eq_false : fieldV w = false ↔ w.toNat / 2 ^ 12 % 2 = 0 := by rw [← Bool.toNat_eq_zero, fieldV_toNat]

/-- op has no bits above it to lose: it is the whole quotient. -/
theorem fieldOp_eq_iff {op : BitVec 4} : fieldOp w = op ↔ w.toNat / 2 ^ 20 = op.toNat := by
  have hw := w.isLt
  rw [← BitVec.toNat_inj, fieldOp_toNat, Nat.mod_eq_of_lt (by omega)]

/-! ### A word is its format's opcode and fields, put together again (R51 to R54) -/

theorem formatP_of_fields (hrz : fieldRz w = 0#3) (hpz : fieldPz w = 0#4) :
    formatP (fieldOp w) (fieldV w) (fieldY w) (fieldX w) = w := by
  have hw := w.isLt
  rw [fieldRz_eq_zero] at hrz
  rw [fieldPz_eq_zero] at hpz
  apply BitVec.eq_of_toNat_eq
  rw [formatP_toNat, fieldOp_toNat, fieldV_toNat, fieldY_toNat, fieldX_toNat]
  omega

theorem formatB_of_fields (hrz : fieldRz w = 0#3) : formatB (fieldOp w) (fieldIdx w) (fieldData w) = w := by
  have hw := w.isLt
  rw [fieldRz_eq_zero] at hrz
  apply BitVec.eq_of_toNat_eq
  rw [formatB_toNat, fieldOp_toNat, fieldIdx_toNat, fieldData_toNat]
  omega

theorem formatC_of_fields (hrz : fieldRz w = 0#3) (hcz : fieldCz w = 0#12) :
    formatC (fieldOp w) (fieldPolicy w) (fieldN8 w) = w := by
  have hw := w.isLt
  rw [fieldRz_eq_zero] at hrz
  rw [fieldCz_eq_zero] at hcz
  apply BitVec.eq_of_toNat_eq
  rw [formatC_toNat, fieldOp_toNat, fieldPolicy_toNat, fieldN8_toNat]
  omega

theorem formatZ_of_fields (hrz : fieldRz w = 0#3) (hzz : fieldZz w = 0#17) : formatZ (fieldOp w) = w := by
  have hw := w.isLt
  rw [fieldRz_eq_zero] at hrz
  rw [fieldZz_eq_zero] at hzz
  apply BitVec.eq_of_toNat_eq
  rw [formatZ_toNat, fieldOp_toNat]
  omega

theorem HasFields.encode_eq (h : HasFields w i) : encode i = w := by
  cases h with
  | nop hrz hop hzz => simpa [encode, hop] using formatZ_of_fields hrz hzz
  | rdpx hrz hop hpz hv => simpa [encode, hop, hv] using formatP_of_fields hrz hpz
  | wrpx hrz hop hpz => simpa [encode, hop] using formatP_of_fields hrz hpz
  | ldb hrz hop => simpa [encode, hop] using formatB_of_fields hrz
  | rdb hrz hop hdata => simpa [encode, hop, hdata] using formatB_of_fields hrz
  | cfg hrz hop hcz => simpa [encode, hop] using formatC_of_fields hrz hcz
  | evolve hrz hop hzz => simpa [encode, hop] using formatZ_of_fields hrz hzz
  | stat hrz hop hzz => simpa [encode, hop] using formatZ_of_fields hrz hzz

/-! ### Every command's word decodes to it (R58) -/

theorem fields_formatC (op : BitVec 4) (p : Policy) (m : BitVec 4) :
    fieldPolicy (formatC op p m) = p ∧ fieldN8 (formatC op p m) = m ∧ fieldCz (formatC op p m) = 0#12 := by
  have hw := formatC_toNat op p m
  have hp := p.toBit.toNat_lt
  have hm := m.isLt
  refine ⟨?_, BitVec.eq_of_toNat_eq ?_, BitVec.eq_of_toNat_eq ?_⟩
  · simp only [fieldPolicy, formatC, BitVec.getLsbD_append]; simp
  · rw [fieldN8_toNat]; omega
  · rw [fieldCz_toNat]; show _ = 0; omega

theorem decode_encode_cfg (p : Policy) (m : BitVec 4) : decode (encode (.cfg p m)) = .legal (.cfg p m) := by
  obtain ⟨hop, hrz⟩ := Laws.RowWord.op_rz_formatC 5#4 p m
  obtain ⟨hp, hm, hcz⟩ := fields_formatC 5#4 p m
  simp [encode, decode, decodeCfg, hop, hrz, hp, hm, hcz]

theorem decode_encode (i : Instr) : decode (encode i) = .legal i := by
  cases i with
  | nop => decide
  | rdpx x y => exact decode_encode_rdpx x y
  | wrpx x y v => exact decode_encode_wrpx x y v
  | ldb idx data => exact decode_encode_ldb idx data
  | rdb idx => exact decode_encode_rdb idx
  | cfg p m => exact decode_encode_cfg p m
  | evolve => decide
  | stat => decide

/-- Settles O2, command by command: every operand field of the encoded word is the operand. -/
theorem decodeOfEncode : Obligations.DecodeOfEncode := decode_encode

/-- Settles O3: a word that decodes has the fields of its command, and a word is made of its fields. -/
theorem encodeOfDecode : Obligations.EncodeOfDecode := fun _ _ h => (hasFields_of_decode h).encode_eq

/-- Settles O1: sixteen closed words. -/
theorem knownWordsDecode : Obligations.KnownWordsDecode := by
  unfold Obligations.KnownWordsDecode
  decide

end Sys2Proof
end

section
/-! PROOFS. Legal and illegal words: the opcode map (30_encoding.md R55), the five clauses of R57, and the operands as
numbers (R56). -/

namespace Sys2Proof

variable {w : CmdWord} {i : Instr}

theorem illegal_iff_not_legal : (∃ why, decode w = .illegal why) ↔ ¬∃ i, decode w = .legal i := by
  cases decode w <;> simp

/-! ### The opcode map (R55) -/

theorem mem_opcodeTable_iff {r : OpRow} : r ∈ opcodeTable ↔ ∃ i, opRow i = r := by
  constructor
  · intro h
    simp only [opcodeTable, List.mem_cons, List.not_mem_nil, or_false] at h
    rcases h with rfl | rfl | rfl | rfl | rfl | rfl | rfl | rfl <;> exact ⟨_, rfl⟩
  · rintro ⟨i, rfl⟩
    cases i <;> simp [opcodeTable, opRow]

/-- Every command's word is a word of its row (R55). -/
theorem rowWord (i : Instr) : Laws.RowWord.Statement i := by
  cases i with
  | nop => exact Laws.RowWord.nop
  | rdpx x y => exact Laws.RowWord.rdpx x y
  | wrpx x y v => exact Laws.RowWord.wrpx x y v
  | ldb idx data => exact Laws.RowWord.ldb idx data
  | rdb idx => exact Laws.RowWord.rdb idx
  | cfg p m => exact Laws.RowWord.cfg p m
  | evolve => exact Laws.RowWord.evolve
  | stat => exact Laws.RowWord.stat

theorem opRow_matches_encode (i : Instr) : (opRow i).matches (encode i) = true := by
  obtain ⟨-, -, hmatch⟩ := rowWord i
  exact hmatch

/-- A field that a row's mask covers has the value that the row's match gives it. -/
theorem field_of_mask {mask mtch : CmdWord} {start len : Nat} {v : BitVec len} (h : w &&& mask = mtch)
    (hmask : mask.extractLsb' start len = BitVec.allOnes len) (hmtch : mtch.extractLsb' start len = v) :
    w.extractLsb' start len = v := by
  rw [← hmtch, ← h, BitVec.extractLsb'_and, hmask, BitVec.and_allOnes]

/-- A word that matches a row has the fields of a command of that row. -/
theorem hasFields_of_matches (h : (opRow i).matches w = true) : ∃ j, HasFields w j ∧ opRow j = opRow i := by
  replace h := of_decide_eq_true h
  cases i with
  | nop =>
    have h : w &&& 0xFFFFFF#24 = 0x000000#24 := h
    exact ⟨_, .nop (field_of_mask h rfl rfl) (field_of_mask h rfl rfl) (field_of_mask h rfl rfl), rfl⟩
  | rdpx x y =>
    have h : w &&& 0xFFF000#24 = 0x100000#24 := h
    have hv : fieldV w = false := by simpa [fieldV] using congrArg (BitVec.getLsbD · 12) h
    exact ⟨_, .rdpx (field_of_mask h rfl rfl) (field_of_mask h rfl rfl) (field_of_mask h rfl rfl) hv, rfl⟩
  | wrpx x y v =>
    have h : w &&& 0xFFE000#24 = 0x200000#24 := h
    exact ⟨_, .wrpx (field_of_mask h rfl rfl) (field_of_mask h rfl rfl) (field_of_mask h rfl rfl), rfl⟩
  | ldb idx data =>
    have h : w &&& 0xFE0000#24 = 0x300000#24 := h
    exact ⟨_, .ldb (field_of_mask h rfl rfl) (field_of_mask h rfl rfl), rfl⟩
  | rdb idx =>
    have h : w &&& 0xFE00FF#24 = 0x400000#24 := h
    exact ⟨_, .rdb (field_of_mask h rfl rfl) (field_of_mask h rfl rfl) (field_of_mask h rfl rfl), rfl⟩
  | cfg p m =>
    have h : w &&& 0xFFFFE0#24 = 0x500000#24 := h
    exact ⟨_, .cfg (field_of_mask h rfl rfl) (field_of_mask h rfl rfl) (field_of_mask h rfl rfl), rfl⟩
  | evolve =>
    have h : w &&& 0xFFFFFF#24 = 0x600000#24 := h
    exact ⟨_, .evolve (field_of_mask h rfl rfl) (field_of_mask h rfl rfl) (field_of_mask h rfl rfl), rfl⟩
  | stat =>
    have h : w &&& 0xFFFFFF#24 = 0x700000#24 := h
    exact ⟨_, .stat (field_of_mask h rfl rfl) (field_of_mask h rfl rfl) (field_of_mask h rfl rfl), rfl⟩

theorem matches_iff_decode {r : OpRow} (hr : r ∈ opcodeTable) :
    r.matches w = true ↔ ∃ i, decode w = .legal i ∧ opRow i = r := by
  obtain ⟨i, rfl⟩ := mem_opcodeTable_iff.1 hr
  constructor
  · intro h
    obtain ⟨j, hj, hrow⟩ := hasFields_of_matches h
    exact ⟨j, hj.decode_eq, hrow⟩
  · rintro ⟨j, hj, hrow⟩
    rw [← hrow, ← (hasFields_of_decode hj).encode_eq]
    exact opRow_matches_encode j

theorem illegal_iff_no_row_matches :
    (∀ r ∈ opcodeTable, r.matches w = false) ↔ ∃ why, decode w = .illegal why := by
  rw [illegal_iff_not_legal]
  constructor
  · rintro h ⟨i, hi⟩
    have hr : opRow i ∈ opcodeTable := mem_opcodeTable_iff.2 ⟨i, rfl⟩
    exact Bool.eq_false_iff.1 (h _ hr) ((matches_iff_decode hr).2 ⟨i, hi, rfl⟩)
  · intro h r hr
    refine Bool.eq_false_iff.2 fun hm => h ?_
    obtain ⟨i, hi, -⟩ := (matches_iff_decode hr).1 hm
    exact ⟨i, hi⟩

/-- Settles O4: a matched word decodes to a command of the row, so one word matches one row at most. -/
theorem decodeFollowsTheOpcodeMap : Obligations.DecodeFollowsTheOpcodeMap := by
  refine ⟨fun w r hr => matches_iff_decode hr, fun w r r' hr hr' hm hm' => ?_, fun w => illegal_iff_no_row_matches⟩
  obtain ⟨i, hi, rfl⟩ := (matches_iff_decode hr).1 hm
  obtain ⟨j, hj, rfl⟩ := (matches_iff_decode hr').1 hm'
  rw [hi] at hj
  injection hj with hij
  rw [hij]

/-! ### The five clauses (R57) -/

theorem badOpcode_eq_false_iff : w.badOpcode = false ↔ (fieldOp w).toNat < 8 := by
  have hw := w.isLt
  rw [CmdWord.badOpcode, decide_eq_false_iff_not, fieldOp_toNat]
  omega

theorem badRz_eq_false_iff : w.badRz = false ↔ fieldRz w = 0#3 := by
  rw [CmdWord.badRz, decide_eq_false_iff_not, not_not, fieldRz_eq_zero]

theorem badReserved_eq_false_iff : w.badReserved = false ↔
    (fieldOp w = 0x1#4 ∨ fieldOp w = 0x2#4 → fieldPz w = 0#4) ∧
    (fieldOp w = 0x5#4 → fieldCz w = 0#12) ∧
    (fieldOp w = 0x0#4 ∨ fieldOp w = 0x6#4 ∨ fieldOp w = 0x7#4 → fieldZz w = 0#17) := by
  simp only [CmdWord.badReserved, Bool.or_eq_false_iff, Bool.and_eq_false_iff, decide_eq_false_iff_not, not_not,
    fieldOp_eq_iff, fieldPz_eq_zero, fieldCz_eq_zero, fieldZz_eq_zero, imp_iff_not_or, and_assoc]
  rfl

theorem badRdpxV_eq_false_iff : w.badRdpxV = false ↔ (fieldOp w = 0x1#4 → fieldV w = false) := by
  simp only [CmdWord.badRdpxV, Bool.and_eq_false_iff, decide_eq_false_iff_not, not_not, fieldOp_eq_iff,
    fieldV_eq_false, imp_iff_not_or]
  rfl

theorem badRdbData_eq_false_iff : w.badRdbData = false ↔ (fieldOp w = 0x4#4 → fieldData w = 0#8) := by
  simp only [CmdWord.badRdbData, Bool.and_eq_false_iff, decide_eq_false_iff_not, not_not, fieldOp_eq_iff,
    fieldData_eq_zero, imp_iff_not_or]
  rfl

/-- R57's clauses, negated, on the decoder's fields. -/
theorem CmdWord.wellFormed_iff : w.wellFormed = true ↔
    (fieldOp w).toNat < 8 ∧ fieldRz w = 0#3 ∧
    ((fieldOp w = 0x1#4 ∨ fieldOp w = 0x2#4 → fieldPz w = 0#4) ∧
      (fieldOp w = 0x5#4 → fieldCz w = 0#12) ∧
      (fieldOp w = 0x0#4 ∨ fieldOp w = 0x6#4 ∨ fieldOp w = 0x7#4 → fieldZz w = 0#17)) ∧
    (fieldOp w = 0x1#4 → fieldV w = false) ∧ (fieldOp w = 0x4#4 → fieldData w = 0#8) := by
  rw [← badOpcode_eq_false_iff, ← badRz_eq_false_iff, ← badReserved_eq_false_iff, ← badRdpxV_eq_false_iff,
    ← badRdbData_eq_false_iff]
  simp only [CmdWord.wellFormed, Bool.not_eq_true', Bool.or_eq_false_iff, and_assoc]

theorem HasFields.wellFormed (h : HasFields w i) : w.wellFormed = true := by
  rw [CmdWord.wellFormed_iff]
  cases h <;> simp_all

theorem hasFields_of_wellFormed (h : w.wellFormed = true) : ∃ i, HasFields w i := by
  obtain ⟨hop, hrz, ⟨hpz, hcz, hzz⟩, hv, hdata⟩ := CmdWord.wellFormed_iff.1 h
  have hcases : fieldOp w = 0x0#4 ∨ fieldOp w = 0x1#4 ∨ fieldOp w = 0x2#4 ∨ fieldOp w = 0x3#4 ∨
      fieldOp w = 0x4#4 ∨ fieldOp w = 0x5#4 ∨ fieldOp w = 0x6#4 ∨ fieldOp w = 0x7#4 := by
    simp only [← BitVec.toNat_inj, BitVec.toNat_ofNat]; omega
  rcases hcases with e | e | e | e | e | e | e | e
  · exact ⟨_, .nop hrz e (hzz (.inl e))⟩
  · exact ⟨_, .rdpx hrz e (hpz (.inl e)) (hv e)⟩
  · exact ⟨_, .wrpx hrz e (hpz (.inr e))⟩
  · exact ⟨_, .ldb hrz e⟩
  · exact ⟨_, .rdb hrz e (hdata e)⟩
  · exact ⟨_, .cfg hrz e (hcz e)⟩
  · exact ⟨_, .evolve hrz e (hzz (.inr (.inl e)))⟩
  · exact ⟨_, .stat hrz e (hzz (.inr (.inr e)))⟩

theorem illegal_iff_not_wellFormed : (∃ why, decode w = .illegal why) ↔ w.wellFormed = false := by
  rw [illegal_iff_not_legal, ← Bool.not_eq_true, not_iff_not]
  exact ⟨fun ⟨_, h⟩ => (hasFields_of_decode h).wellFormed,
    fun h => (hasFields_of_wellFormed h).imp fun _ hi => hi.decode_eq⟩

/-- Settles O5: the words with the fields of some command are those that none of the clauses holds of. -/
theorem illegalExactlyByTheFiveClauses : Obligations.IllegalExactlyByTheFiveClauses := by
  intro w
  rw [illegal_iff_not_wellFormed]
  simp only [CmdWord.wellFormed, Bool.not_eq_false', Bool.or_eq_true, or_assoc]

/-! ### The operands (R56) -/

/-- Bits above a field that fits below them add to it. -/
theorem shiftLeft_or (a : Nat) {b k : Nat} (h : b < 2 ^ k) : a <<< k ||| b = a * 2 ^ k + b := by
  rw [← Nat.shiftLeft_add_eq_or_of_lt h, Nat.shiftLeft_eq]

theorem encode_wrpx_toNat (x y : Coord) (v : Bool) : (encode (.wrpx x y v)).toNat =
    (2 <<< 20) ||| ((v.toNat <<< 12) ||| (y.toNat <<< 6) ||| x.toNat) := by
  have hx := x.isLt
  have hy := y.isLt
  have hv := v.toNat_lt
  rw [Nat.or_assoc, shiftLeft_or y.toNat hx, shiftLeft_or v.toNat (by omega), shiftLeft_or 2 (by omega),
    encode, formatP_toNat, BitVec.toNat_ofNat]
  omega

theorem encode_rdpx_toNat (x y : Coord) :
    (encode (.rdpx x y)).toNat = (1 <<< 20) ||| ((y.toNat <<< 6) ||| x.toNat) := by
  have hx := x.isLt
  have hy := y.isLt
  rw [shiftLeft_or y.toNat hx, shiftLeft_or 1 (by omega), encode, formatP_toNat, BitVec.toNat_ofNat, Bool.toNat_false]
  omega

theorem encode_ldb_toNat (idx : Idx) (data : Byte) :
    (encode (.ldb idx data)).toNat = (3 <<< 20) ||| ((idx.toNat <<< 8) ||| data.toNat) := by
  have hi := idx.isLt
  have hd := data.isLt
  rw [shiftLeft_or idx.toNat hd, shiftLeft_or 3 (by omega), encode, formatB_toNat, BitVec.toNat_ofNat]
  omega

theorem encode_rdb_toNat (idx : Idx) : (encode (.rdb idx)).toNat = (4 <<< 20) ||| (idx.toNat <<< 8) := by
  have hi := idx.isLt
  rw [Nat.shiftLeft_eq idx.toNat, shiftLeft_or 4 (by omega), encode, formatB_toNat, BitVec.toNat_ofNat, BitVec.toNat_ofNat]
  omega

theorem encode_cfg_toNat (p : Policy) (m : BitVec 4) :
    (encode (.cfg p m)).toNat = (5 <<< 20) ||| ((p.toBit.toNat <<< 4) ||| m.toNat) := by
  have hm := m.isLt
  have hp := p.toBit.toNat_lt
  rw [shiftLeft_or p.toBit.toNat hm, shiftLeft_or 5 (by omega), encode, formatC_toNat, BitVec.toNat_ofNat]
  omega

theorem eq_toroidal_iff {p : Policy} : p = .toroidal ↔ p.toBit.toNat = 1 := by cases p <;> decide

/-- Settles O6: a decoded operand is its field, and a format's bits are disjoint, so `|||` adds them. -/
theorem operandsAreTheWordsFields : Obligations.OperandsAreTheWordsFields := by
  refine ⟨fun w x y h => ?_, fun w x y v h => ?_, fun w idx data h => ?_, fun w idx h => ?_, fun w p m h => ?_,
    encode_wrpx_toNat, encode_rdpx_toNat, encode_ldb_toNat, encode_rdb_toNat, encode_cfg_toNat,
    by decide, by decide, by decide⟩
  · cases hasFields_of_decode h with
    | rdpx => exact ⟨fieldX_toNat w, fieldY_toNat w⟩
  · cases hasFields_of_decode h with
    | wrpx => exact ⟨fieldX_toNat w, fieldY_toNat w, fieldV_toNat w⟩
  · cases hasFields_of_decode h with
    | ldb => exact ⟨fieldIdx_toNat w, fieldData_toNat w⟩
  · cases hasFields_of_decode h with
    | rdb => exact fieldIdx_toNat w
  · cases hasFields_of_decode h with
    | cfg => exact ⟨fieldN8_toNat w, by rw [eq_toroidal_iff, fieldPolicy_toNat]; rfl⟩

end Sys2Proof
end

section
/-! PROOFS. The assembler's lines (30_encoding.md R61, R62). -/

namespace Sys2Proof.Machine

theorem assembleWords_of_wellFormed {l : AsmLine} (h : l.wellFormed = true) :
    assembleWords l = some ((expandLine l).map encode) := by
  simp [assembleWords, assemble, h]

theorem assembleWords_eq_none_iff (l : AsmLine) : assembleWords l = none ↔ l.wellFormed = false := by
  cases h : l.wellFormed
  · simp [assembleWords, assemble, h]
  · simp [assembleWords_of_wellFormed h]

/-- An assembled word is the word of a command, so it is legal (R57, R58). -/
theorem wellFormed_of_mem_assembleWords {l : AsmLine} {ws : List CmdWord} {w : CmdWord} (h : assembleWords l = some ws)
    (hw : w ∈ ws) : w.wellFormed = true := by
  obtain ⟨is, -, rfl⟩ := Option.map_eq_some_iff.1 h
  obtain ⟨i, -, rfl⟩ := List.mem_map.1 hw
  exact (hasFields_of_decode (decode_encode i)).wellFormed

/-! ### The words of operands in range -/

theorem encode_wrpx_ofNat {x y : Nat} (hx : x < 64) (hy : y < 64) :
    encode (.wrpx (BitVec.ofNat 6 x) (BitVec.ofNat 6 y) true) = BitVec.ofNat 24 (0x200000 + 4096 + y * 64 + x) := by
  apply BitVec.eq_of_toNat_eq
  simp only [encode, formatP_toNat, BitVec.toNat_ofNat, Bool.toNat_true]
  omega

theorem encode_ldb_ofNat {i b : Nat} (hi : i < 512) (hb : b < 256) :
    encode (.ldb (BitVec.ofNat 9 i) (BitVec.ofNat 8 b)) = BitVec.ofNat 24 (0x300000 + i * 256 + b) := by
  apply BitVec.eq_of_toNat_eq
  simp only [encode, formatB_toNat, BitVec.toNat_ofNat]
  omega

theorem encode_rdb_ofNat {i : Nat} (hi : i < 512) :
    encode (.rdb (BitVec.ofNat 9 i)) = BitVec.ofNat 24 (0x400000 + i * 256) := by
  apply BitVec.eq_of_toNat_eq
  simp only [encode, formatB_toNat, BitVec.toNat_ofNat]
  omega

theorem encode_cfg_ofNat {n : Nat} (p : Policy) (hn : n ≤ 120) :
    encode (.cfg p (BitVec.ofNat 4 (n / 8))) = BitVec.ofNat 24 (0x500000 + p.toBit.toNat * 16 + n / 8) := by
  have hp := p.toBit.toNat_lt
  apply BitVec.eq_of_toNat_eq
  simp only [encode, formatC_toNat, BitVec.toNat_ofNat]
  omega

/-! ### The expansions of R62 -/

theorem seedFrom_eq_mapIdx (i : Nat) (bs : List Nat) :
    seedFrom i bs = bs.mapIdx fun j b => .ldb (BitVec.ofNat 9 (i + j)) (BitVec.ofNat 8 b) := by
  induction bs generalizing i with
  | nil => rfl
  | cons b bs ih => simp [seedFrom, ih, List.mapIdx_cons, Nat.add_assoc, Nat.add_comm 1]

/-- The word of byte i of a SEED or a FILL. -/
theorem getElem?_seed {bs : List Nat} {i b : Nat} (hlen : bs.length ≤ 512) (h : bs[i]? = some b) (hb : b < 256) :
    ((seedFrom 0 bs).map encode)[i]? = some (BitVec.ofNat 24 (0x300000 + i * 256 + b)) := by
  have hi : i < bs.length := (List.getElem?_eq_some_iff.1 h).1
  simp [seedFrom_eq_mapIdx, h, encode_ldb_ofNat (Nat.lt_of_lt_of_le hi hlen) hb]

theorem assembleWords_setpx_clrpx {x y : Nat} (hx : x < 64) (hy : y < 64) :
    assembleWords (.setpx x y) = assembleWords (.wrpx x y 1) ∧
    assembleWords (.clrpx x y) = assembleWords (.wrpx x y 0) ∧
    assembleWords (.wrpx x y 1) = some [BitVec.ofNat 24 (0x200000 + 4096 + y * 64 + x)] := by
  simp [assembleWords, assemble, AsmLine.wellFormed, expandLine, hx, hy, encode_wrpx_ofNat]

theorem map_encode_seedFrom_replicate {n b : Nat} (hn : n ≤ 512) (hb : b < 256) :
    (seedFrom 0 (List.replicate n b)).map encode =
      (List.range n).map fun i => BitVec.ofNat 24 (0x300000 + i * 256 + b) := by
  refine List.ext_getElem (by simp [seedFrom_eq_mapIdx]) fun i _ hi => ?_
  rw [List.length_map, List.length_range] at hi
  simp [seedFrom_eq_mapIdx, encode_ldb_ofNat (Nat.lt_of_lt_of_le hi hn) hb]

theorem assembleWords_fill {b : Nat} (hb : b < 256) :
    assembleWords (.fill b) = some ((List.range 512).map fun i => BitVec.ofNat 24 (0x300000 + i * 256 + b)) := by
  rw [assembleWords_of_wellFormed (l := .fill b) (decide_eq_true hb)]
  exact congrArg some (map_encode_seedFrom_replicate le_rfl hb)

theorem assembleWords_seed {bs : List Nat} (h1 : 1 ≤ bs.length) (h512 : bs.length ≤ 512) (hbs : ∀ b ∈ bs, b < 256) :
    ∃ ws, assembleWords (.seed bs) = some ws ∧ ws.length = bs.length ∧
      ∀ (i b : Nat), bs[i]? = some b → ws[i]? = some (BitVec.ofNat 24 (0x300000 + i * 256 + b)) := by
  have hwf : (AsmLine.seed bs).wellFormed = true := by
    simpa [AsmLine.wellFormed, h512] using ⟨h1, hbs⟩
  refine ⟨_, assembleWords_of_wellFormed hwf, by simp [expandLine, seedFrom_eq_mapIdx], fun i b h => ?_⟩
  exact getElem?_seed h512 h (hbs b (List.mem_of_getElem? h))

theorem assembleWords_dump {n : Nat} (h1 : 1 ≤ n) (h512 : n ≤ 512) :
    assembleWords (.dump n) = some ((List.range n).map fun i => BitVec.ofNat 24 (0x400000 + i * 256)) := by
  rw [assembleWords_of_wellFormed (l := .dump n) (decide_eq_true ⟨h1, h512⟩), expandLine, List.map_map]
  refine congrArg some (List.map_congr_left fun i hi => ?_)
  exact encode_rdb_ofNat (Nat.lt_of_lt_of_le (List.mem_range.1 hi) h512)

theorem assembleWords_cfg {n : Nat} (p : Policy) (hmod : n % 8 = 0) (hn : n ≤ 120) :
    assembleWords (.cfg n p) = some [BitVec.ofNat 24 (0x500000 + p.toBit.toNat * 16 + n / 8)] := by
  rw [assembleWords_of_wellFormed (l := .cfg n p) (decide_eq_true ⟨hmod, hn⟩), expandLine, List.map_singleton,
    encode_cfg_ofNat p hn]

/-- Settles O7: a line's words are the encoded words of its expansion, or none at all. -/
theorem assemblerLinesExpandAsListed : Obligations.AssemblerLinesExpandAsListed :=
  ⟨assembleWords_eq_none_iff, fun _ _ h _ hw => wellFormed_of_mem_assembleWords h hw,
    fun _ _ hx hy => assembleWords_setpx_clrpx hx hy, fun _ hb => assembleWords_fill hb, rfl,
    fun _ h1 h512 hbs => assembleWords_seed h1 h512 hbs, fun _ h1 h512 => assembleWords_dump h1 h512,
    fun _ p hmod hn => assembleWords_cfg p hmod hn⟩

end Sys2Proof.Machine
end

section
/-! PROOFS. What a step does with the command words that the host presents (30_encoding.md R60, 70_reset_and_hazards.md
R161). -/

namespace Sys2Proof.Machine

variable {s t : State} {w : CmdWord} {rest q : List HostAction}

/-- A block that runs no EVOLVE accepts the presented word (R60). -/
theorem step_of_ready (hq : s.pending = .cmd w :: rest) (hb : s.ph.busy = false) :
    step s = accept w { s with pending := rest } := by
  simp [step, advance, hq, cmdReady, hb]

/-- With nothing presented the step is the sequencer's. -/
theorem step_of_nothing_presented (hq : s.pending = []) : step s = seqStep s := by
  simp [step, advance, hq]

/-- While an EVOLVE runs a presented word waits, and the step is the sequencer's (R60, R161). -/
theorem step_of_waiting (hq : s.pending = .cmd w :: rest) (hb : s.ph.busy = true) : step s = seqStep s := by
  simp [step, advance, hq, cmdReady, hb]

theorem accept_of_legal {i : Instr} (hw : decode w = .legal i) (s : State) : accept w s = exec i s := by
  simp [accept, hw]

theorem accept_of_illegal {why : Illegal} (hw : decode w = .illegal why) (hf : s.fault = false) :
    accept w s = .next (raiseFault s .illcmd) := by
  simp [accept, hw, serve, hf]

/-- Settles O28: a block in IDLE or FAULTED is ready, and accepting a legal word is `exec`. -/
theorem stepRunsTheDecodedCommand : Obligations.StepRunsTheDecodedCommand := by
  intro s w rest i hq hp hw
  have hb : s.ph.busy = false := by rcases hp with hp | hp <;> simp [hp, Phase.busy]
  rw [step_of_ready hq hb, accept_of_legal hw]

/-- Settles O18: a word that is not well formed decodes to ILLEGAL, and accepting that raises ILLCMD. -/
theorem illegalWordRaisesIllcmd : Obligations.IllegalWordRaisesIllcmd := by
  intro s w rest hq hp hf hw
  obtain ⟨why, hwhy⟩ := illegal_iff_not_wellFormed.2 hw
  rw [step_of_ready hq (by simp [hp, Phase.busy])]
  exact accept_of_illegal (s := { s with pending := rest }) hwhy hf

/-- Settles O29: the sequencer does not look at what the host presents. -/
theorem commandWaitsWhileEvolveRuns : Obligations.CommandWaitsWhileEvolveRuns := by
  intro s t w rest hq hb h
  rw [step_of_waiting hq hb] at h
  refine ⟨(seqStep_pending h).trans hq, fun w' rest' => ?_, ?_⟩
  · rw [step_of_waiting (s := { s with pending := .cmd w' :: rest' }) rfl hb]
    exact seqStep_setPending _ h
  · rw [step_of_nothing_presented rfl]
    exact seqStep_setPending _ h

/-! ### Accepting a word does not look at what the host presents after it -/

theorem serve_of_fault {body : State → Host.Outcome State Fault Refusal} (hf : s.fault = true) :
    serve s body = .next (respond s true (zext16 s.cause)) := if_pos hf

theorem serve_of_no_fault {body : State → Host.Outcome State Fault Refusal} (hf : s.fault = false) :
    serve s body = body s := if_neg (by simp [hf])

theorem withCell_of_not_configured {x y : Coord} {body : State → State} (hn : s.n8 = 0#4) :
    withCell x y s body = .next (raiseFault s .nocfg) := if_pos hn

theorem withCell_of_not_inRange {x y : Coord} {body : State → State} (hn : s.n8 ≠ 0#4)
    (hr : inRange x.toNat y.toNat (sideOf s.n8) = false) : withCell x y s body = .next (raiseFault s .coord) :=
  (if_neg hn).trans (if_pos hr)

theorem serve_setPending {body : State → Host.Outcome State Fault Refusal} (h : serve s body = .next t)
    (hbody : ∀ u, body s = .next u → body { s with pending := q } = .next { u with pending := q }) :
    serve { s with pending := q } body = .next { t with pending := q } := by
  rcases serve_cases h with ⟨hf, rfl⟩ | ⟨hf, h⟩
  · exact serve_of_fault (s := { s with pending := q }) hf
  · exact (serve_of_no_fault (s := { s with pending := q }) hf).trans (hbody t h)

theorem withCell_setPending {x y : Coord} {body : State → State} (h : withCell x y s body = .next t)
    (hbody : body { s with pending := q } = { body s with pending := q }) :
    withCell x y { s with pending := q } body = .next { t with pending := q } := by
  rcases withCell_cases h with ⟨hn, rfl⟩ | ⟨hn, hr, rfl⟩ | ⟨hd, rfl⟩
  · exact withCell_of_not_configured (s := { s with pending := q }) hn
  · exact withCell_of_not_inRange (s := { s with pending := q }) hn hr
  · exact (withCell_of_codecDefined (s := { s with pending := q }) hd).trans (congrArg _ hbody)

theorem writeByte_setPending (s : State) (q : List HostAction) (b : Bank) (i : Idx) (v : Byte) :
    writeByte { s with pending := q } b i v = { writeByte s b i v with pending := q } := by
  cases b <;> rfl

theorem exec_setPending {i : Instr} (h : exec i s = .next t) :
    exec i { s with pending := q } = .next { t with pending := q } := by
  cases i with
  | nop =>
    unfold exec execNop at h ⊢
    exact serve_setPending h fun u hu => by cases hu; rfl
  | rdpx x y =>
    unfold exec execRdpx at h ⊢
    exact serve_setPending h fun u hu => withCell_setPending hu rfl
  | wrpx x y v =>
    unfold exec execWrpx at h ⊢
    refine serve_setPending h fun u hu => withCell_setPending hu ?_
    rw [setCell_setPending]; rfl
  | ldb idx data =>
    unfold exec execLdb at h ⊢
    refine serve_setPending h fun u hu => ?_
    cases hu
    rw [writeByte_setPending]; rfl
  | rdb idx =>
    unfold exec execRdb at h ⊢
    exact serve_setPending h fun u hu => by cases hu; rfl
  | cfg p m =>
    unfold exec execCfg at h ⊢
    refine serve_setPending h fun u hu => ?_
    split at hu
    · next hm => cases hu; exact if_pos hm
    · next hm => cases hu; exact if_neg hm
  | evolve =>
    unfold exec execEvolve at h ⊢
    refine serve_setPending h fun u hu => ?_
    split at hu
    · next hn => cases hu; exact if_pos hn
    · next hn => cases hu; exact if_neg hn
  | stat => cases h; rfl

theorem accept_setPending (h : accept w s = .next t) :
    accept w { s with pending := q } = .next { t with pending := q } := by
  cases hw : decode w with
  | legal i =>
    rw [accept_of_legal hw] at h ⊢
    exact exec_setPending h
  | illegal why =>
    simp only [accept, hw] at h ⊢
    exact serve_setPending h fun u hu => by cases hu; rfl

/-! ### Accepting a word always answers -/

theorem serve_answers {body : State → Host.Outcome State Fault Refusal} (h : ∃ t, body s = .next t) :
    ∃ t, serve s body = .next t := by
  unfold serve
  split
  · exact ⟨_, rfl⟩
  · exact h

/-- With a legal or no side RDPX and WRPX call the codec inside its domain only (R76, R77, R105). -/
theorem withCell_answers (hcfg : InvConfig s) (x y : Coord) (body : State → State) :
    ∃ t, withCell x y s body = .next t := by
  by_cases hd : codecDefined s.n8 x.toNat y.toNat = true
  · exact ⟨_, withCell_of_codecDefined hd⟩
  · unfold withCell
    split
    · exact ⟨_, rfl⟩
    next hn =>
    rw [if_pos]
    · exact ⟨_, rfl⟩
    · have h1 : 1 ≤ s.n8.toNat := Nat.pos_of_ne_zero fun h0 => hn (BitVec.eq_of_toNat_eq h0)
      simpa [codecDefined, h1, hcfg] using hd

theorem exec_answers (hcfg : InvConfig s) (i : Instr) : ∃ t, exec i s = .next t := by
  cases i with
  | nop => unfold exec execNop; exact serve_answers ⟨_, rfl⟩
  | rdpx x y => unfold exec execRdpx; exact serve_answers (withCell_answers hcfg x y _)
  | wrpx x y v => unfold exec execWrpx; exact serve_answers (withCell_answers hcfg x y _)
  | ldb idx data => unfold exec execLdb; exact serve_answers ⟨_, rfl⟩
  | rdb idx => unfold exec execRdb; exact serve_answers ⟨_, rfl⟩
  | cfg p m =>
    unfold exec execCfg
    refine serve_answers ?_
    split <;> exact ⟨_, rfl⟩
  | evolve =>
    unfold exec execEvolve
    refine serve_answers ?_
    split <;> exact ⟨_, rfl⟩
  | stat => exact ⟨_, rfl⟩

theorem accept_answers (hcfg : InvConfig s) (w : CmdWord) : ∃ t, accept w s = .next t := by
  cases hw : decode w with
  | legal i => rw [accept_of_legal hw]; exact exec_answers hcfg i
  | illegal why =>
    simp only [accept, hw]
    exact serve_answers ⟨_, rfl⟩

end Sys2Proof.Machine
end

section
/-! PROOFS. A whole command and a list of commands, at the command level and as steps of the block (30_encoding.md R59, R60,
70_reset_and_hazards.md R165). -/

namespace Sys2Proof.Machine

variable {s t u : State} {w : CmdWord} {n : Nat} {as : List Access}

/-! ### A run of micro-steps, seen from `settle` and from the step -/

theorem MicroRun.inv (h : MicroRun n s as t) (hi : Inv s) : Inv t := by
  induction h with
  | done s => exact hi
  | more _ hs _ ih => exact ih (inv_seqStep hi hs)

/-- The block is IDLE after SWAP, so a run that goes on, or ends busy, starts with another micro-step. -/
theorem MicroRun.ph_ne_swap (hs : seqStep s = .next t) (hr : MicroRun n t as u) (hb : u.ph.busy = true) :
    s.ph ≠ .swap := by
  intro hp
  obtain rfl : seqSwap s = t := by simpa [seqStep_of_swap hp] using hs
  cases hr with
  | done => simp [Phase.busy] at hb
  | more hb' => simp [Phase.busy] at hb'

/-- A run that has not come to its SWAP delivers no response (R100). -/
theorem MicroRun.keeps_responses (h : MicroRun n s as t) (hb : t.ph.busy = true) : t.responses = s.responses := by
  induction h with
  | done s => rfl
  | more _ hs hr ih => exact (ih hb).trans (seqStep_keeps_responses hs (MicroRun.ph_ne_swap hs hr hb))

/-- `settle` makes a run of micro-steps to its end, if its fuel lasts. -/
theorem MicroRun.settle_eq (h : MicroRun n s as t) (hb : t.ph.busy = false) {fuel : Nat} (hle : n ≤ fuel) :
    settle fuel s = .next t := by
  induction h generalizing fuel with
  | done s => exact settle_idle fuel hb
  | more hb' hs _ ih =>
    obtain ⟨fuel, rfl⟩ := Nat.exists_eq_add_of_le' (Nat.le_of_add_left_le hle)
    rw [settle_busy hb' hs]
    exact ih hb (Nat.le_of_succ_le_succ hle)

theorem run_succ {M : Host.Core} {s t : M.State} (h : M.step s = .next t) (n : Nat) : M.run (n + 1) s = M.run n t := by
  simp [Host.Core.run, h]

theorem core_run_succ (h : step s = .next t) (n : Nat) : Host.Core.run core (n + 1) s = Host.Core.run core n t :=
  run_succ (M := core) (s := s) (t := t) h n

theorem run_add {M : Host.Core} {n : Nat} {s t : M.State} (h : M.run n s = .next t) (m : Nat) :
    M.run (n + m) s = M.run m t := by
  induction n generalizing s with
  | zero =>
    cases h
    rw [Nat.zero_add]
  | succ n ih =>
    cases hs : M.step s with
    | next u =>
      rw [run_succ hs] at h
      rw [Nat.add_right_comm, run_succ hs, ih h]
    | fault f => simp [Host.Core.run, hs] at h
    | refused r => simp [Host.Core.run, hs] at h

/-- The words of a program, presented one after the other (R60). -/
def presenting (s : State) (ws : List CmdWord) : State := { s with pending := ws.map HostAction.cmd }

/-- The micro-steps of an EVOLVE are steps of the block, during which the words wait (R60, R161). -/
theorem step_presenting_of_busy (hb : s.ph.busy = true) (h : seqStep s = .next t) (ws : List CmdWord) :
    step (presenting s ws) = .next (presenting t ws) := by
  have hstep : step (presenting s ws) = seqStep (presenting s ws) := by
    cases ws with
    | nil => exact step_of_nothing_presented rfl
    | cons w ws => exact step_of_waiting (s := presenting s (w :: ws)) rfl hb
  rw [hstep]
  exact seqStep_setPending _ h

theorem MicroRun.run_presenting (h : MicroRun n s as t) (ws : List CmdWord) :
    Host.Core.run core n (presenting s ws) = .next (presenting t ws) := by
  induction h with
  | done s => rfl
  | @more n _ _ _ _ hb hs _ ih =>
    exact (core_run_succ (step_presenting_of_busy hb hs ws) n).trans ih

/-! ### One command -/

/-- Accepting the word `w` in `s` and taking all micro-steps of an EVOLVE that it starts leads to `t`, which runs no EVOLVE
(R60, R100). -/
def Completes (w : CmdWord) (s t : State) : Prop :=
  ∃ (u : State) (n : Nat) (as : List Access), accept w s = .next u ∧ MicroRun n u as t ∧
    n ≤ microSteps Config.nmax ∧ t.ph.busy = false

theorem Completes.runCommand_eq (h : Completes w s t) (hb : s.ph.busy = false) : runCommand w s = .next t := by
  obtain ⟨u, n, as, ha, hr, hn, hb'⟩ := h
  simp [runCommand, settle_idle _ hb, ha, hr.settle_eq hb' hn]

theorem Completes.inv (h : Completes w s t) (hb : s.ph.busy = false) (hi : Inv s) : Inv t := by
  obtain ⟨u, n, as, ha, hr, -, -⟩ := h
  exact hr.inv ((acceptEffect_of_accept ha).inv hb hi)

theorem Completes.not_busy (h : Completes w s t) : t.ph.busy = false := by
  obtain ⟨_, _, _, _, _, _, hb⟩ := h
  exact hb

/-- The block's steps complete the command while the next words wait (R60). -/
theorem Completes.run_presenting (h : Completes w s t) (hb : s.ph.busy = false) (ws : List CmdWord) :
    ∃ n, Host.Core.run core n (presenting s (w :: ws)) = .next (presenting t ws) := by
  obtain ⟨u, n, as, ha, hr, -, -⟩ := h
  have hstep : step (presenting s (w :: ws)) = .next (presenting u ws) :=
    (step_of_ready (s := presenting s (w :: ws)) rfl hb).trans (accept_setPending (s := s) ha)
  exact ⟨n + 1, (core_run_succ hstep n).trans (hr.run_presenting ws)⟩

/-- The EVOLVE of a legal side ends within the micro-steps of the largest, with one response (R99, R100). -/
theorem microRun_evolve (hi : Inv s) (hb : s.ph.busy = false) (hf : s.fault = false) (hn : s.n8 ≠ 0#4) :
    ∃ n as t, MicroRun n (startEvolve s) as t ∧ n ≤ microSteps Config.nmax ∧ t.ph.busy = false ∧
      ∃ r, t.responses = s.responses ++ [r] := by
  obtain ⟨h8, ⟨-, -, hfaulted⟩, -⟩ := hi
  have hp : s.ph = .idle := by
    cases hph : s.ph <;> simp [hph, Phase.busy, hf] at hb hfaulted ⊢
  have h1 : 1 ≤ s.n8.toNat := Nat.pos_of_ne_zero fun h0 => hn (BitVec.eq_of_toNat_eq h0)
  obtain ⟨t, hscan, hswap⟩ := microRun_scan ⟨hf, hp, h1, h8⟩
  have hbt : t.ph.busy = true := by rw [hswap]; rfl
  have hside : s.side ≤ Config.nmax := by unfold State.side sideOf Config.nmax; omega
  refine ⟨_, _, seqSwap t, hscan.trans (.single hbt (seqStep_of_swap hswap)), ?_, rfl, ⟨false, 0#16⟩, ?_⟩
  · exact Nat.add_le_add_right (Nat.mul_le_mul_left 10 (Nat.mul_le_mul hside hside)) 1
  · rw [seqSwap_responses, hscan.keeps_responses hbt, startEvolve_responses]

/-- Every word is answered, once, by a block that can accept one (R59, R60). -/
theorem completes_with_one_response (hi : Inv s) (hb : s.ph.busy = false) (w : CmdWord) :
    ∃ t r, Completes w s t ∧ t.responses = s.responses ++ [r] := by
  obtain ⟨u, ha⟩ := accept_answers hi.1 w
  have atOnce (hbu : u.ph.busy = false) : Completes w s u := ⟨u, 0, [], ha, .done u, Nat.zero_le _, hbu⟩
  cases acceptEffect_of_accept ha with
  | responds e d => exact ⟨_, _, atOnce hb, rfl⟩
  | faults c => exact ⟨_, _, atOnce rfl, rfl⟩
  | stores i v => exact ⟨_, _, atOnce (by simpa using hb), by simp; rfl⟩
  | configures p m => exact ⟨_, _, atOnce hb, rfl⟩
  | starts hf hn =>
    obtain ⟨n, as, t, hr, hle, hbt, r, hresp⟩ := microRun_evolve hi hb hf hn
    exact ⟨t, r, ⟨_, n, as, ha, hr, hle, hbt⟩, hresp⟩

/-! ### A list of commands -/

theorem runCommands_cons {ws : List CmdWord} (h : runCommand w s = .next t) :
    runCommands (w :: ws) s = runCommands ws t := by
  simp [runCommands, h]

theorem idle_or_faulted_of_not_busy (hb : s.ph.busy = false) : s.ph = .idle ∨ s.ph = .faulted := by
  cases hp : s.ph <;> simp [hp, Phase.busy] at hb ⊢

/-- Settles O41, by induction on the words: each completes with one response and leaves a block that meets Inv. -/
theorem oneResponsePerCommandWord : Obligations.OneResponsePerCommandWord := by
  intro ws
  induction ws with
  | nil => exact fun s hi hb => ⟨s, [], rfl, by simp, rfl, idle_or_faulted_of_not_busy hb, hi⟩
  | cons w ws ih =>
    intro s hi hb
    obtain ⟨u, r, hw, hr⟩ := completes_with_one_response hi hb w
    obtain ⟨t, rs, hws, hrs, hlen, hend⟩ := ih u (hw.inv hb hi) hw.not_busy
    refine ⟨t, r :: rs, (runCommands_cons (hw.runCommand_eq hb)).trans hws, ?_, by simp [hlen], hend⟩
    rw [hrs, hr, List.append_assoc, List.singleton_append]

/-- Settles O42, by induction on the words: the steps complete the first while the others wait. -/
theorem stepsPerformTheCommandRun : Obligations.StepsPerformTheCommandRun := by
  intro ws
  induction ws with
  | nil => exact fun s _ _ => ⟨0, s, rfl, rfl⟩
  | cons w ws ih =>
    intro s hi hb
    obtain ⟨u, r, hw, -⟩ := completes_with_one_response hi hb w
    obtain ⟨n, hn⟩ := hw.run_presenting hb ws
    obtain ⟨m, t, hws, hm⟩ := ih u (hw.inv hb hi) hw.not_busy
    exact ⟨n + m, t, (runCommands_cons (hw.runCommand_eq hb)).trans hws, (run_add hn m).trans hm⟩

end Sys2Proof.Machine
end

section
/-! PROOFS. The cells as bits of the banks: where a cell's byte lies, what cell_set does to every bit, and RDPX, WRPX, LDB
and RDB on the command port (40_codec.md R70 to R79). -/

namespace Sys2Proof.Machine

variable {s : State} {m x y x' y' : Nat}

/-! ### The place of a cell -/

/-- byte_index on a legal side, with ROWB written as N8 (R70). -/
theorem byteIndex_eq (x y m : Nat) : byteIndex x y (8 * m) = BitVec.ofNat 9 (y * m + x / 8) := by
  rw [byteIndex, Nat.mul_div_cancel_left m (by decide)]

/-- Only the largest side fills a bank (R72). -/
theorem gridBytes_le (h8 : m ≤ 8) : gridBytes (8 * m) ≤ 512 := by
  rw [gridBytes_eq]
  exact Nat.mul_le_mul (Nat.mul_le_mul_left 8 h8) h8

theorem eq_eight_of_gridBytes (h8 : m ≤ 8) (h : 511 < gridBytes (8 * m)) : m = 8 := by
  rw [gridBytes_eq] at h
  by_contra hne
  have h7 : m ≤ 7 := by omega
  have : 8 * m * m ≤ 8 * 7 * 7 := Nat.mul_le_mul (Nat.mul_le_mul_left 8 h7) h7
  omega

/-- The last byte of a bank belongs to the last eight cells of the last row of the largest grid (R72). -/
theorem byteIndex_eq_last_iff (h8 : m ≤ 8) (hx : x < 8 * m) (hy : y < 8 * m) :
    (byteIndex x y (8 * m)).toNat = 511 ↔ m = 8 ∧ 56 ≤ x ∧ y = 63 := by
  constructor
  · intro h
    have hlt := (codec_left_inverse h8 hx hy).1
    obtain rfl := eq_eight_of_gridBytes h8 (h ▸ hlt)
    rw [byteIndex_toNat _ _ _ h8 hx hy] at h
    omega
  · rintro ⟨rfl, hx56, rfl⟩
    rw [byteIndex_toNat _ _ _ h8 hx hy]
    omega

/-- Settles O43: the 9-bit index never wraps, and only the largest side reaches byte 511. -/
theorem cellsStayInsideTheGridBytes : Obligations.CellsStayInsideTheGridBytes :=
  fun _ _ _ _ h8 hx hy => ⟨byteIndex_toNat _ _ _ h8 hx hy, (codec_left_inverse h8 hx hy).1, gridBytes_le h8,
    byteIndex_eq_last_iff h8 hx hy⟩

/-- Two cells in the same bit of the same byte are the same cell (R42). -/
theorem cell_eq_iff (h8 : m ≤ 8) (hx : x < 8 * m) (hy : y < 8 * m) (hx' : x' < 8 * m) (hy' : y' < 8 * m) :
    byteIndex x' y' (8 * m) = byteIndex x y (8 * m) ∧ 7 - x' % 8 = 7 - x % 8 ↔ x' = x ∧ y' = y := by
  constructor
  · rintro ⟨hidx, hpos⟩
    have hbit : bitIndex x' = bitIndex x := by unfold bitIndex; omega
    obtain ⟨-, hcol, hrow⟩ := codec_left_inverse h8 hx hy
    obtain ⟨-, hcol', hrow'⟩ := codec_left_inverse h8 hx' hy'
    exact ⟨by rw [← hcol', ← hcol, hidx, hbit], by rw [← hrow', ← hrow, hidx]⟩
  · rintro ⟨rfl, rfl⟩
    exact ⟨rfl, rfl⟩

/-! ### cell_set on the bits -/

/-- cell_set writes the cell's bit and no other bit of either bank (R74). -/
theorem readByte_setCell_bit (s : State) (b c : Bank) (x y n : Nat) (v : Bool) (i : Idx) {j : Nat} (hj : j < 8) :
    (readByte (setCell s b x y n v) c i).getLsbD j =
      if (c = b ∧ i = byteIndex x y n) ∧ j = 7 - x % 8 then v else (readByte s c i).getLsbD j := by
  rw [readByte_setCell]
  by_cases hbyte : c = b ∧ i = byteIndex x y n
  · obtain ⟨rfl, rfl⟩ := hbyte
    simp [cellByte_bit _ _ _ _ hj]
  · simp [hbyte]

/-- cell_get of any cell after cell_set (R75 (a), (c)). -/
theorem getCell_setCell (s : State) (b : Bank) (v : Bool) (h8 : m ≤ 8) (hx : x < 8 * m) (hy : y < 8 * m)
    (hx' : x' < 8 * m) (hy' : y' < 8 * m) :
    getCell (setCell s b x y (8 * m) v) b x' y' (8 * m) =
      if x' = x ∧ y' = y then v else getCell s b x' y' (8 * m) := by
  have hpos : 7 - x' % 8 < 8 := by omega
  simp only [getCell, cellGet_eq_bit, readByte_setCell_bit _ _ _ _ _ _ _ _ hpos, true_and,
    cell_eq_iff h8 hx hy hx' hy']

/-- Settles O45: distinct cells are distinct bits. -/
theorem cellWriteThenReadBack : Obligations.CellWriteThenReadBack :=
  fun s b _ _ _ _ _ v _ h8 hx hy hx' hy' =>
    ⟨getCell_setCell s b v h8 hx hy hx' hy', fun _ _ hne => readByte_setCell_other hne⟩

/-- Writing a cell's value again changes nothing (R75 (d)). -/
theorem readByte_setCell_twice (s : State) (b c : Bank) (x y n : Nat) (v : Bool) (i : Idx) :
    readByte (setCell (setCell s b x y n v) b x y n v) c i = readByte (setCell s b x y n v) c i := by
  refine BitVec.eq_of_getLsbD_eq fun j hj => ?_
  rw [readByte_setCell_bit _ _ _ _ _ _ _ _ hj, readByte_setCell_bit _ _ _ _ _ _ _ _ hj]
  split <;> rfl

/-- Writes of different cells commute: no bit is the bit of both (R75 (d)). -/
theorem readByte_setCell_comm (s : State) (b c : Bank) (v v' : Bool) (i : Idx) (h8 : m ≤ 8) (hx : x < 8 * m)
    (hy : y < 8 * m) (hx' : x' < 8 * m) (hy' : y' < 8 * m) (hne : (x, y) ≠ (x', y')) :
    readByte (setCell (setCell s b x y (8 * m) v) b x' y' (8 * m) v') c i =
      readByte (setCell (setCell s b x' y' (8 * m) v') b x y (8 * m) v) c i := by
  refine BitVec.eq_of_getLsbD_eq fun j hj => ?_
  simp only [readByte_setCell_bit _ _ _ _ _ _ _ _ hj]
  by_cases hbit : (c = b ∧ i = byteIndex x y (8 * m)) ∧ j = 7 - x % 8
  · obtain ⟨⟨rfl, rfl⟩, rfl⟩ := hbit
    have hother : ¬(byteIndex x y (8 * m) = byteIndex x' y' (8 * m) ∧ 7 - x % 8 = 7 - x' % 8) := by
      rw [cell_eq_iff h8 hx' hy' hx hy]
      simpa using hne
    simp only [true_and, if_neg hother]
  · simp only [if_neg hbit]

/-- Settles O46: compared bit by bit. -/
theorem cellWritesCommute : Obligations.CellWritesCommute :=
  fun s b _ _ _ _ _ v v' _ h8 hx hy hx' hy' =>
    ⟨fun c i => readByte_setCell_twice s b c _ _ _ v i,
      fun hne c i => readByte_setCell_comm s b c v v' i h8 hx hy hx' hy' hne⟩

/-! ### The memory commands -/

/-! RDPX and WRPX share their checks, so their faults are proved once, of any body (R76, R77, R132). -/

theorem withCell_of_coord {x y : Coord} {body : State → State} (hn : s.n8 ≠ 0#4)
    (hr : 8 * s.n8.toNat ≤ x.toNat ∨ 8 * s.n8.toNat ≤ y.toNat) : withCell x y s body = .next (raiseFault s .coord) := by
  refine withCell_of_not_inRange hn ?_
  rw [inRange, sideOf, Bool.and_eq_false_iff, decide_eq_false_iff_not, decide_eq_false_iff_not]
  omega

theorem serve_withCell_of_not_configured {x y : Coord} {body : State → State} (hf : s.fault = false)
    (hn : s.n8 = 0#4) : serve s (fun s => withCell x y s body) = .next (raiseFault s .nocfg) := by
  rw [serve_of_no_fault hf, withCell_of_not_configured hn]

theorem serve_withCell_of_coord {x y : Coord} {body : State → State} (hf : s.fault = false) (hn : s.n8 ≠ 0#4)
    (hr : 8 * s.n8.toNat ≤ x.toNat ∨ 8 * s.n8.toNat ≤ y.toNat) :
    serve s (fun s => withCell x y s body) = .next (raiseFault s .coord) := by
  rw [serve_of_no_fault hf, withCell_of_coord hn hr]

/-- A response that carries one cell (R76). -/
theorem zext16_ofBool (v : Bool) : zext16 (BitVec.ofBool v) = if v then 0x0001 else 0x0000 := by cases v <;> rfl

/-- A response that carries one byte (R79). -/
theorem zext16_byte (v : Byte) : zext16 v = BitVec.ofNat 16 v.toNat := (BitVec.ofNat_toNat 16 v).symm

/-- A stored byte and its response change the banks' bytes and no register (R77, R78). -/
theorem respondDone_writeByte_eq (s : State) (b : Bank) (i : Idx) (v : Byte) :
    respondDone (writeByte s b i v) = { s with
      g0 := (writeByte s b i v).g0, g1 := (writeByte s b i v).g1, responses := s.responses ++ [⟨false, 0x0000⟩] } := by
  rw [writeByte_eq]; rfl

/-- Settles O9: past the two checks the response is cell_get, which is that bit. -/
theorem rdpxRespondsTheCell : Obligations.RdpxRespondsTheCell := by
  intro s x y hf
  refine ⟨serve_withCell_of_not_configured hf, serve_withCell_of_coord hf, fun h1 h8 hx hy => ?_⟩
  rw [exec_rdpx hf ((codecDefined_iff _ _ _).2 ⟨h1, h8, hx, hy⟩), zext16_ofBool, getCell, cellGet_eq_bit,
    State.side, sideOf, byteIndex_eq]
  rfl

/-- Settles O10: past the two checks the store is cell_set, which writes that bit. -/
theorem wrpxWritesOneCell : Obligations.WrpxWritesOneCell := by
  intro s x y v hf
  refine ⟨serve_withCell_of_not_configured hf, serve_withCell_of_coord hf, fun h1 h8 hx hy => ?_⟩
  refine ⟨_, exec_wrpx hf v ((codecDefined_iff _ _ _).2 ⟨h1, h8, hx, hy⟩), fun j hj => ?_, fun b i hne => ?_, ?_⟩
  · rw [← byteIndex_eq, readByte_respondDone, readByte_setCell_bit _ _ _ _ _ _ _ _ hj]
    simp [State.side, sideOf]
  · rw [← byteIndex_eq] at hne
    exact readByte_setCell_other hne
  · exact respondDone_writeByte_eq _ _ _ _

/-- Settles O11: the store is one byte write. -/
theorem ldbStoresTheByte : Obligations.LdbStoresTheByte :=
  fun s idx data hf => ⟨_, exec_ldb hf idx data, readByte_writeByte_same s s.front idx data,
    fun _ _ hne => readByte_writeByte_other hne, respondDone_writeByte_eq _ _ _ _⟩

/-- Settles O12: the response is the byte read, zero-extended. -/
theorem rdbRespondsTheByte : Obligations.RdbRespondsTheByte := by
  intro s idx hf
  rw [exec_rdb hf, zext16_byte]
  rfl

end Sys2Proof.Machine
end

section
/-! PROOFS. R99, R100, R104: the micro-steps of an EVOLVE carry out R99's loops, cell by cell, and end in the big step's
state. -/

namespace Sys2Proof.Machine

variable {s t u : State}

/-! ### One cell: the count that WRITE finds -/

/-- CNT and ALIVE keep their bounds and their meaning along the micro-steps (R19, R26 (g), R97). -/
theorem seqStep_keeps_scan (hcount : InvCount s) (hscan : InvScan s) (h : seqStep s = .next t) :
    InvCount t ∧ InvScan t := by
  rcases seqStep_cases h with ⟨-, -, rfl⟩ | ⟨hp, -, rfl⟩ | ⟨-, -, rfl⟩ | ⟨-, rfl⟩ | ⟨-, rfl⟩
  · exact ⟨by simp [InvCount], invScan_seqCenter s⟩
  · exact ⟨invCount_seqNeigh hcount hp, invScan_seqNeigh hcount hscan hp⟩
  · have hph : (seqWrite s).ph = .center ∨ (seqWrite s).ph = .swap := seqAdvance_ph _
    rcases hph with hph | hph <;> simp [InvCount, InvScan, hph]
  · simp [InvCount, InvScan]
  · exact ⟨hcount, hscan⟩

theorem MicroRun.keeps_scan {n : Nat} {as : List Access} (h : MicroRun n s as t) (hcount : InvCount s)
    (hscan : InvScan s) : InvCount t ∧ InvScan t := by
  induction h with
  | done s => exact ⟨hcount, hscan⟩
  | more _ hs _ ih =>
    obtain ⟨hcount', hscan'⟩ := seqStep_keeps_scan hcount hscan hs
    exact ih hcount' hscan'

/-- What CNT holds when a cell of bytes `rd` is written: its complete count, at most 8 (R94, R97). -/
def cellCount (rd : Idx → Byte) (x y n : Nat) (p : Policy) : BitVec 4 := BitVec.ofNat 4 (countLive rd x y n p)

theorem cellCount_toNat (rd : Idx → Byte) (x y n : Nat) (p : Policy) :
    (cellCount rd x y n p).toNat = countLive rd x y n p := by
  have hle : countLive rd x y n p ≤ 8 := countUpTo_le rd x y n p 8
  rw [cellCount, BitVec.toNat_ofNat, Nat.mod_eq_of_lt (by omega)]

/-- One cell of an EVOLVE, with the count that WRITE finds in CNT. -/
theorem microRun_cell_counted (hi : InDomain s) (hp : s.ph = .center) :
    ∃ as, MicroRun 10 s as (seqWrite (scanned s
      (cellCount (readByte s s.front) s.cx.toNat s.cy.toNat s.side s.policy))) := by
  have hcenter := MicroRun.single (by rw [hp]; rfl) (seqStep_of_center hi hp)
  obtain ⟨c, hneigh⟩ := microRun_neighbours 7 (inDomain_seqCenter hi hp) rfl rfl
  obtain ⟨-, -, hwrite⟩ := hneigh.keeps_scan (by simp [InvCount]) (invScan_seqCenter s)
  have hc : c = cellCount (readByte s s.front) s.cx.toNat s.cy.toNat s.side s.policy :=
    BitVec.eq_of_toNat_eq ((hwrite rfl).2.trans (cellCount_toNat _ _ _ _ _).symm)
  have hscan := hcenter.trans hneigh
  subst hc
  exact ⟨_, hscan.trans (.single rfl (seqStep_of_write (hscan.inDomain hi) rfl))⟩

/-! ### R99's loops as one loop over the cells in row-major order (R101) -/

/-- The state of R99's loops after the first `j` cells in row-major order. -/
def scanDone (s : State) (j : Nat) : State :=
  (List.range j).foldl
    (fun u i => evolveCell u s.front (!s.front) s.side s.policy (i % s.side) (i / s.side)) s

theorem scanDone_succ (s : State) (j : Nat) :
    scanDone s (j + 1) =
      evolveCell (scanDone s j) s.front (!s.front) s.side s.policy (j % s.side) (j / s.side) := by
  simp [scanDone, List.range_succ]

/-- Cell (x, y) is number N × y + x of the scan. -/
theorem cell_of_number {n x : Nat} (y : Nat) (hx : x < n) : (n * y + x) % n = x ∧ (n * y + x) / n = y := by
  rw [Nat.mul_add_mod, Nat.mod_eq_of_lt hx, Nat.mul_add_div (by omega), Nat.div_eq_of_lt hx]
  exact ⟨rfl, rfl⟩

/-- The first cells of row y, after the rows before it. -/
theorem foldl_row_scanDone (s : State) (y x : Nat) (hx : x ≤ s.side) :
    (List.range x).foldl (fun u x => evolveCell u s.front (!s.front) s.side s.policy x y) (scanDone s (s.side * y)) =
      scanDone s (s.side * y + x) := by
  induction x with
  | zero => rfl
  | succ x ih =>
    obtain ⟨hcol, hrow⟩ := cell_of_number y hx
    rw [List.range_succ, List.foldl_append, ih (by omega), ← Nat.add_assoc, scanDone_succ, hcol, hrow]
    rfl

theorem evolveGrid_eq_scanDone (s : State) :
    evolveGrid s s.front (!s.front) s.side s.policy = scanDone s (s.side * s.side) := by
  have rows (m : Nat) : (List.range m).foldl (fun t y => (List.range s.side).foldl
      (fun u x => evolveCell u s.front (!s.front) s.side s.policy x y) t) s = scanDone s (s.side * m) := by
    induction m with
    | zero => rfl
    | succ m ih =>
      rw [List.range_succ, List.foldl_append, ih]
      exact foldl_row_scanDone s m s.side (Nat.le_refl _)
  exact rows s.side

/-- The loops write no register. -/
theorem evolveCell_eq (u : State) (f b : Bank) (n : Nat) (p : Policy) (x y : Nat) :
    evolveCell u f b n p x y = { u with g0 := (evolveCell u f b n p x y).g0, g1 := (evolveCell u f b n p x y).g1 } :=
  writeByte_eq _ _ _ _

theorem scanDone_eq (s : State) (j : Nat) :
    scanDone s j = { s with g0 := (scanDone s j).g0, g1 := (scanDone s j).g1 } := by
  induction j with
  | zero => rfl
  | succ j ih => rw [scanDone_succ, evolveCell_eq, ih]

@[simp] theorem scanDone_n8 (s : State) (j : Nat) : (scanDone s j).n8 = s.n8 := by rw [scanDone_eq]
@[simp] theorem scanDone_policy (s : State) (j : Nat) : (scanDone s j).policy = s.policy := by rw [scanDone_eq]
@[simp] theorem scanDone_front (s : State) (j : Nat) : (scanDone s j).front = s.front := by rw [scanDone_eq]
@[simp] theorem scanDone_ph (s : State) (j : Nat) : (scanDone s j).ph = s.ph := by rw [scanDone_eq]

/-- The loops read the front bank and write the back bank (R38). -/
theorem readByte_scanDone_front (s : State) (j : Nat) : readByte (scanDone s j) s.front = readByte s s.front := by
  induction j with
  | zero => rfl
  | succ j ih =>
    rw [scanDone_succ, evolveCell, readByte_setCell_other_bank _ _ _ _ _ _ _ (by cases s.front <;> simp), ih]

/-! ### The simulation -/

/-- The state `u` of the loops with the sequencer at the cell (x, y), and what its scratch registers hold. -/
def withScan (u : State) (ph : Phase) (x y : Coord) (k : BitVec 3) (c : BitVec 4) (a : Bool) : State :=
  { u with ph := ph, cx := x, cy := y, k := k, cnt := c, alive := a }

theorem setCell_withScan (u : State) (ph : Phase) (cx cy : Coord) (k : BitVec 3) (c : BitVec 4) (a : Bool) (b : Bank)
    (x y n : Nat) (v : Bool) :
    setCell (withScan u ph cx cy k c a) b x y n v = withScan (setCell u b x y n v) ph cx cy k c a := by
  cases b <;> rfl

/-- The state `u` of the loops after their body has written the cell (x, y), in WRITE with the move still to come. -/
def writtenAt (u : State) (x y : Coord) : State :=
  withScan (evolveCell u u.front (!u.front) u.side u.policy x.toNat y.toNat) .write x y 7#3
    (cellCount (readByte u u.front) x.toNat y.toNat u.side u.policy) (getCell u u.front x.toNat y.toNat u.side)

/-- WRITE stores what the loops' body stores (R96, R104). -/
theorem seqWrite_scanned (u : State) (x y : Coord) (k : BitVec 3) (c : BitVec 4) (a : Bool) :
    seqWrite (scanned (withScan u .center x y k c a)
      (cellCount (readByte u u.front) x.toNat y.toNat u.side u.policy)) = seqAdvance (writtenAt u x y) := by
  rw [writtenAt, evolveCell, nextCell, ← cellCount_toNat, ← setCell_withScan]
  rfl

theorem microRun_withScan {x y : Coord} (h1 : 1 ≤ u.n8.toNat) (h8 : u.n8.toNat ≤ 8) (hx : x.toNat < u.side)
    (hy : y.toNat < u.side) (k : BitVec 3) (c : BitVec 4) (a : Bool) :
    ∃ as, MicroRun 10 (withScan u .center x y k c a) as (seqAdvance (writtenAt u x y)) := by
  rw [← seqWrite_scanned u x y k c a]
  exact microRun_cell_counted (s := withScan u .center x y k c a) ⟨h1, h8, fun _ => ⟨hx, hy⟩⟩ rfl

/-! WRITE's move (R100, R101). -/

theorem seqAdvance_next_column {x : Coord} (hx : x.toNat + 1 < u.side) (ph : Phase) (y : Coord) (k : BitVec 3)
    (c : BitVec 4) (a : Bool) :
    seqAdvance (withScan u ph x y k c a) = withScan u .center (x + 1#6) y k c a := if_pos hx

theorem seqAdvance_next_row {x y : Coord} (hx : x.toNat + 1 = u.side) (hy : y.toNat + 1 < u.side) (ph : Phase)
    (k : BitVec 3) (c : BitVec 4) (a : Bool) :
    seqAdvance (withScan u ph x y k c a) = withScan u .center 0#6 (y + 1#6) k c a :=
  (if_neg hx.not_lt).trans (if_pos hy)

theorem seqAdvance_last_cell {x y : Coord} (hx : x.toNat + 1 = u.side) (hy : y.toNat + 1 = u.side) (ph : Phase)
    (k : BitVec 3) (c : BitVec 4) (a : Bool) :
    seqAdvance (withScan u ph x y k c a) = withScan u .swap x y k c a :=
  (if_neg hx.not_lt).trans (if_neg hy.not_lt)

/-! CX and CY at the cell of number `j`. -/

def columnAt (s : State) (j : Nat) : Coord := BitVec.ofNat 6 (j % s.side)

def rowAt (s : State) (j : Nat) : Coord := BitVec.ofNat 6 (j / s.side)

section
variable {j : Nat} (h8 : s.n8.toNat ≤ 8) (hj : j < s.side * s.side)
include h8 hj

theorem columnAt_toNat : (columnAt s j).toNat = j % s.side := by
  have hlt : j % s.side < s.side := Nat.mod_lt _ (Nat.pos_of_lt_mul_right hj)
  have hside : s.side ≤ 64 := by unfold State.side sideOf; omega
  rw [columnAt, BitVec.toNat_ofNat, Nat.mod_eq_of_lt (by omega)]

theorem rowAt_toNat : (rowAt s j).toNat = j / s.side := by
  have hlt : j / s.side < s.side := Nat.div_lt_of_lt_mul hj
  have hside : s.side ≤ 64 := by unfold State.side sideOf; omega
  rw [rowAt, BitVec.toNat_ofNat, Nat.mod_eq_of_lt (by omega)]

/-- WRITE at the cell of number `j` stores what round `j` of the loops stores. -/
theorem writtenAt_scanDone :
    writtenAt (scanDone s j) (columnAt s j) (rowAt s j) =
      withScan (scanDone s (j + 1)) .write (columnAt s j) (rowAt s j) 7#3
        (cellCount (readByte s s.front) (j % s.side) (j / s.side) s.side s.policy)
        (getCell s s.front (j % s.side) (j / s.side) s.side) := by
  simp only [writtenAt, columnAt_toNat h8 hj, rowAt_toNat h8 hj, scanDone_succ, scanDone_front, scanDone_policy,
    State.side, scanDone_n8, readByte_scanDone_front, getCell]

end

theorem next_number_same_row {n j : Nat} (h : j % n + 1 < n) : (j + 1) % n = j % n + 1 ∧ (j + 1) / n = j / n := by
  have hcell := cell_of_number (j / n) h
  rwa [← Nat.add_assoc, Nat.div_add_mod] at hcell

theorem next_number_next_row {n j : Nat} (h : j % n + 1 = n) : (j + 1) % n = 0 ∧ (j + 1) / n = j / n + 1 := by
  have hcell := cell_of_number (n := n) (j / n + 1) (x := 0) (by omega)
  have hnumber : n * (j / n + 1) + 0 = j + 1 := by
    have := Nat.div_add_mod j n
    rw [Nat.mul_succ]; omega
  rwa [hnumber] at hcell

/-- WRITE's move goes on to the cell of the next number. -/
theorem seqAdvance_next_number (h8 : s.n8.toNat ≤ 8) {j : Nat} (hj : j + 1 < s.side * s.side) (hu : u.side = s.side)
    (ph : Phase) (k : BitVec 3) (c : BitVec 4) (a : Bool) :
    seqAdvance (withScan u ph (columnAt s j) (rowAt s j) k c a) =
      withScan u .center (columnAt s (j + 1)) (rowAt s (j + 1)) k c a := by
  have hcol := columnAt_toNat h8 (Nat.lt_of_succ_lt hj)
  have hrow := rowAt_toNat h8 (Nat.lt_of_succ_lt hj)
  have hlt : j % s.side < s.side := Nat.mod_lt _ (Nat.pos_of_lt_mul_right hj)
  rcases Nat.lt_or_eq_of_le (Nat.succ_le_of_lt hlt) with hx | hx
  · obtain ⟨hcol', hrow'⟩ := next_number_same_row hx
    rw [seqAdvance_next_column (by rwa [hcol, hu]), columnAt, columnAt, rowAt, rowAt, hcol', hrow', BitVec.ofNat_add]
  · obtain ⟨hcol', hrow'⟩ := next_number_next_row hx
    have hy : j / s.side + 1 < s.side := hrow' ▸ Nat.div_lt_of_lt_mul hj
    rw [seqAdvance_next_row (by rwa [hcol, hu]) (by rwa [hrow, hu]), columnAt, rowAt, rowAt, hcol', hrow',
      BitVec.ofNat_add]

/-- Ten micro-steps from CENTER carry out one round of the loops. -/
theorem microRun_round (h1 : 1 ≤ s.n8.toNat) (h8 : s.n8.toNat ≤ 8) {j : Nat} (hj : j < s.side * s.side)
    (k : BitVec 3) (c : BitVec 4) (a : Bool) :
    ∃ as, MicroRun 10 (withScan (scanDone s j) .center (columnAt s j) (rowAt s j) k c a) as
      (seqAdvance (withScan (scanDone s (j + 1)) .write (columnAt s j) (rowAt s j) 7#3
        (cellCount (readByte s s.front) (j % s.side) (j / s.side) s.side s.policy)
        (getCell s s.front (j % s.side) (j / s.side) s.side))) := by
  have hside : (scanDone s j).side = s.side := by simp [State.side]
  rw [← writtenAt_scanDone h8 hj]
  refine microRun_withScan (by simpa using h1) (by simpa using h8) ?_ ?_ k c a
  · rw [columnAt_toNat h8 hj, hside]
    exact Nat.mod_lt _ (Nat.pos_of_lt_mul_right hj)
  · rw [rowAt_toNat h8 hj, hside]
    exact Nat.div_lt_of_lt_mul hj

/-- After ten micro-steps per cell the banks are those of the loops, and the sequencer is at the next cell (R104). -/
theorem microRun_scanDone (h1 : 1 ≤ s.n8.toNat) (h8 : s.n8.toNat ≤ 8) {j : Nat} (hj : j < s.side * s.side) :
    ∃ as k c a, MicroRun (10 * j) (startEvolve s) as
      (withScan (scanDone s j) .center (columnAt s j) (rowAt s j) k c a) := by
  induction j with
  | zero =>
    refine ⟨[], s.k, s.cnt, s.alive, ?_⟩
    rw [columnAt, rowAt, Nat.zero_mod, Nat.zero_div]
    exact .done _
  | succ j ih =>
    obtain ⟨as, k, c, a, hrun⟩ := ih (Nat.lt_of_succ_lt hj)
    obtain ⟨bs, hround⟩ := microRun_round h1 h8 (Nat.lt_of_succ_lt hj) k c a
    rw [seqAdvance_next_number h8 hj (by simp [State.side])] at hround
    exact ⟨_, _, _, _, hrun.trans hround⟩

/-- The state after a whole EVOLVE: the big step's, with the scratch registers left by the cell (N-1, N-1) (R99, R100). -/
def evolved (s : State) : State :=
  withScan (evolveBig s) .idle (BitVec.ofNat 6 (s.side - 1)) (BitVec.ofNat 6 (s.side - 1)) 7#3
    (cellCount (readByte s s.front) (s.side - 1) (s.side - 1) s.side s.policy)
    (getCell s s.front (s.side - 1) (s.side - 1) s.side)

theorem microRun_swap (hp : s.ph = .swap) : MicroRun 1 s (seqAccesses s) (seqSwap s) :=
  .single (by rw [hp]; rfl) (seqStep_of_swap hp)

/-- SWAP after the loops does what the big step does after them. -/
theorem seqSwap_scanDone (s : State) (x y : Coord) (k : BitVec 3) (c : BitVec 4) (a : Bool) :
    seqSwap (withScan (scanDone s (s.side * s.side)) .swap x y k c a) = withScan (evolveBig s) .idle x y k c a := by
  rw [evolveBig, evolveGrid_eq_scanDone]
  simp [seqSwap, withScan, respondDone, respond]

/-- The number of the last cell (R101). -/
theorem last_number {n : Nat} (hn : 1 ≤ n) : ∃ j, j + 1 = n * n ∧ j % n = n - 1 ∧ j / n = n - 1 := by
  have hpred : n - 1 + 1 = n := Nat.sub_add_cancel hn
  refine ⟨n * (n - 1) + (n - 1), ?_, cell_of_number (n - 1) (by omega)⟩
  rw [Nat.add_assoc, hpred, ← Nat.mul_succ, Nat.succ_eq_add_one, hpred]

/-- The micro-steps of an EVOLVE, 10 × N² for the cells and SWAP, end in the big step's state (R100, R104). -/
theorem microRun_evolved (hc : Configured s) : ∃ as, MicroRun (microSteps s.side) (startEvolve s) as (evolved s) := by
  obtain ⟨-, -, h1, h8⟩ := hc
  have hside : 1 ≤ s.side := by unfold State.side sideOf; omega
  obtain ⟨j, hlast, hcol, hrow⟩ := last_number hside
  have hj : j < s.side * s.side := by omega
  have hx := columnAt_toNat h8 hj
  have hy := rowAt_toNat h8 hj
  have hend : s.side - 1 + 1 = (scanDone s (j + 1)).side := by
    rw [Nat.sub_add_cancel hside, State.side, State.side, scanDone_n8]
  obtain ⟨as, k, c, a, hrun⟩ := microRun_scanDone h1 h8 hj
  obtain ⟨bs, hround⟩ := microRun_round h1 h8 hj k c a
  rw [seqAdvance_last_cell (by rw [hx, hcol, hend]) (by rw [hy, hrow, hend]), hlast] at hround
  rw [columnAt, rowAt, hcol, hrow] at hrun hround
  have hall := (hrun.trans hround).trans (microRun_swap rfl)
  rw [seqSwap_scanDone, show 10 * j + 10 + 1 = microSteps s.side by rw [microSteps, ← hlast]; omega] at hall
  exact ⟨_, hall⟩

end Sys2Proof.Machine
end

section
/-! PROOFS. R98, R99: the cells of the grid after an EVOLVE, and R100's count of its micro-steps. -/

namespace Sys2Proof.Machine

variable {s t u : State}

/-! ### The whole EVOLVE, seen from `settle` and from the step -/

theorem settle_evolved (hc : Configured s) : settle (microSteps s.side) (startEvolve s) = .next (evolved s) := by
  obtain ⟨as, hrun⟩ := microRun_evolved hc
  exact hrun.settle_eq rfl (Nat.le_refl _)

/-- Settles O55: the micro-steps end in the big step's state, up to the scratch registers. -/
theorem microStepsAgreeWithTheBigStep : Obligations.MicroStepsAgreeWithTheBigStep :=
  fun _ hc => ⟨_, settle_evolved hc, rfl, rfl, rfl, rfl, rfl, rfl, rfl, rfl, rfl⟩

/-- With nothing presented the micro-steps are the steps of the block. -/
theorem MicroRun.core_run {n : Nat} {as : List Access} (h : MicroRun n s as t) (hq : s.pending = []) :
    Host.Core.run core n s = .next t := by
  induction h with
  | done s => rfl
  | @more n s t u as _ hs _ ih =>
    exact (core_run_succ ((step_of_nothing_presented hq).trans hs) n).trans (ih ((seqStep_pending hs).trans hq))

/-- A run of micro-steps is busy until its end. -/
theorem MicroRun.busy_before_end {n m : Nat} {as : List Access} (h : MicroRun n s as t) (hm : m < n) :
    ∃ bs u, MicroRun m s bs u ∧ u.ph.busy = true := by
  induction h generalizing m with
  | done s => exact absurd hm (Nat.not_lt_zero m)
  | @more n s t u as hb hs _ ih =>
    cases m with
    | zero => exact ⟨[], s, .done s, hb⟩
    | succ m =>
      obtain ⟨bs, v, hv, hbv⟩ := ih (Nat.lt_of_succ_lt_succ hm)
      exact ⟨_, v, .more hb hs hv, hbv⟩

/-- Settles O56: the run of 10 × N² + 1 micro-steps, which are the block's steps, is busy until its end. -/
theorem evolveTakesTheStatedMicroSteps : Obligations.EvolveTakesTheStatedMicroSteps := by
  intro s hc hq
  obtain ⟨as, hrun⟩ := microRun_evolved hc
  refine ⟨fun n hn => ?_, evolved s, hrun.core_run hq, rfl⟩
  obtain ⟨bs, t, ht, hb⟩ := hrun.busy_before_end hn
  exact ⟨t, ht.core_run hq, hb⟩

/-! ### Bytes and cells -/

section
variable {m : Nat} {rd rd' : Idx → Byte}

/-- Every bit of the grid's bytes is a cell (R42). -/
theorem bit_eq_cellGet (rd : Idx → Byte) {i : Idx} {j : Nat} (h1 : 1 ≤ m) (hi : i.toNat < gridBytes (8 * m))
    (hj : j < 8) : (rd i).getLsbD j =
      cellGet rd (cellColumn i.toNat (7 - j) (8 * m)) (cellRow i.toNat (8 * m)) (8 * m) := by
  obtain ⟨-, -, hbyte, hbit⟩ := codec_right_inverse h1 hi (show 7 - j < 8 by omega)
  have hpos : 7 - cellColumn i.toNat (7 - j) (8 * m) % 8 = j := by rw [bitIndex] at hbit; omega
  rw [cellGet_eq_bit, hbyte, hpos]

/-- Two grids have the same bytes 0..GRIDB-1 exactly when they have the same cells (R12, R42). -/
theorem same_bytes_iff_same_cells (h1 : 1 ≤ m) (h8 : m ≤ 8) :
    (∀ i : Idx, i.toNat < gridBytes (8 * m) → rd i = rd' i) ↔
      ∀ x y, x < 8 * m → y < 8 * m → cellGet rd x y (8 * m) = cellGet rd' x y (8 * m) := by
  constructor
  · intro h x y hx hy
    rw [cellGet, cellGet, h _ (codec_left_inverse h8 hx hy).1]
  · intro h i hi
    refine BitVec.eq_of_getLsbD_eq fun j hj => ?_
    obtain ⟨hx, hy, -, -⟩ := codec_right_inverse h1 hi (show 7 - j < 8 by omega)
    rw [bit_eq_cellGet rd h1 hi hj, bit_eq_cellGet rd' h1 hi hj, h _ _ hx hy]

end

/-- The bits of next_grid's bytes are the next cells (R98). -/
theorem nextGridByte_bit (rd : Idx → Byte) (n : Nat) (p : Policy) (i : Nat) {j : Nat} (hj : j < 8) :
    (nextGridByte rd n p i).getLsbD j = nextCell rd (cellColumn i (7 - j) n) (cellRow i n) n p := by
  have hpos : 7 - j < 8 := by omega
  refine (BitVec.getLsbD_ofBoolListBE (i := j)).trans ?_
  simp [hj, hpos]

/-! ### The banks after the scan -/

/-- The first `j` cells of the back bank hold their next values (R96, R99). -/
theorem getCell_scanDone (h8 : s.n8.toNat ≤ 8) {j : Nat} (hj : j ≤ s.side * s.side) {x y : Nat} (hx : x < s.side)
    (hy : y < s.side) (hlt : s.side * y + x < j) :
    getCell (scanDone s j) (!s.front) x y s.side = nextCell (readByte s s.front) x y s.side s.policy := by
  induction j with
  | zero => exact absurd hlt (Nat.not_lt_zero _)
  | succ j ih =>
    have hcol : j % s.side < s.side := Nat.mod_lt _ (Nat.zero_lt_of_lt hx)
    have hrow : j / s.side < s.side := Nat.div_lt_of_lt_mul hj
    have hset := getCell_setCell (scanDone s j) (!s.front) (nextCell (readByte (scanDone s j) s.front)
      (j % s.side) (j / s.side) s.side s.policy) h8 hcol hrow hx hy
    rw [scanDone_succ]
    refine hset.trans ?_
    split
    · next hcell => rw [hcell.1, hcell.2, readByte_scanDone_front]
    · next hcell =>
      refine ih (Nat.le_of_succ_le hj) (Nat.lt_of_le_of_ne (Nat.le_of_lt_succ hlt) fun hnumber => hcell ?_)
      obtain ⟨hmod, hdiv⟩ := cell_of_number y hx
      rw [← hnumber]
      exact ⟨hmod.symm, hdiv.symm⟩

/-- The scan writes no byte after the grid's (R103). -/
theorem readByte_scanDone_trailing (h8 : s.n8.toNat ≤ 8) {j : Nat} (hj : j ≤ s.side * s.side) (b : Bank) {i : Idx}
    (hi : gridBytes s.side ≤ i.toNat) : readByte (scanDone s j) b i = readByte s b i := by
  induction j with
  | zero => rfl
  | succ j ih =>
    have hcol : j % s.side < s.side := Nat.mod_lt _ (Nat.pos_of_lt_mul_right hj)
    have hrow : j / s.side < s.side := Nat.div_lt_of_lt_mul hj
    have hbyte : (byteIndex (j % s.side) (j / s.side) s.side).toNat < gridBytes s.side :=
      (codec_left_inverse h8 hcol hrow).1
    rw [scanDone_succ, evolveCell, readByte_setCell_other, ih (Nat.le_of_succ_le hj)]
    rintro ⟨-, rfl⟩
    omega

theorem readByte_evolved (s : State) : readByte (evolved s) = readByte (scanDone s (s.side * s.side)) := by
  rw [evolved, evolveBig, evolveGrid_eq_scanDone]; rfl

@[simp] theorem evolved_front (s : State) : (evolved s).front = !s.front := rfl

/-- Every cell of the new front bank is the next value of the old front bank's cell (R96, R99). -/
theorem getCell_evolved (h8 : s.n8.toNat ≤ 8) {x y : Nat} (hx : x < s.side) (hy : y < s.side) :
    getCell (evolved s) (evolved s).front x y s.side = nextCell (readByte s s.front) x y s.side s.policy := by
  have hnumber : s.side * y + x < s.side * s.side := by
    have : s.side * (y + 1) ≤ s.side * s.side := Nat.mul_le_mul_left _ hy
    rw [Nat.mul_succ] at this; omega
  rw [getCell, readByte_evolved]
  exact getCell_scanDone h8 (Nat.le_refl _) hx hy hnumber

/-- The new front bank's grid bytes are next_grid of the old front bank's (R98, R99). -/
theorem readByte_evolved_grid (h1 : 1 ≤ s.n8.toNat) (h8 : s.n8.toNat ≤ 8) {i : Idx} (hi : i.toNat < gridBytes s.side) :
    readByte (evolved s) (evolved s).front i = nextGridByte (readByte s s.front) s.side s.policy i.toNat := by
  refine BitVec.eq_of_getLsbD_eq fun j hj => ?_
  obtain ⟨hx, hy, -, -⟩ := codec_right_inverse h1 hi (show 7 - j < 8 by omega)
  exact (bit_eq_cellGet _ h1 hi hj).trans ((getCell_evolved h8 hx hy).trans (nextGridByte_bit _ _ _ _ hj).symm)

/-- The big step writes the banks' bytes, inverts FRONT and responds (R99). -/
theorem evolveBig_eq (s : State) : evolveBig s = { s with
    g0 := (evolveBig s).g0, g1 := (evolveBig s).g1, front := !s.front
    responses := s.responses ++ [⟨false, 0x0000⟩] } := by
  rw [evolveBig, evolveGrid_eq_scanDone, scanDone_eq]; rfl

/-- The registers after an EVOLVE (R99, R100). -/
theorem evolved_eq (hp : s.ph = .idle) :
    evolved s = { s with
      g0 := (evolved s).g0, g1 := (evolved s).g1, front := !s.front, k := 7
      cx := BitVec.ofNat 6 (s.side - 1), cy := BitVec.ofNat 6 (s.side - 1)
      cnt := BitVec.ofNat 4 (countLive (readByte s s.front) (s.side - 1) (s.side - 1) s.side s.policy)
      alive := getCell s s.front (s.side - 1) (s.side - 1) s.side
      responses := s.responses ++ [⟨false, 0x0000⟩] } := by
  rw [evolved, evolveBig_eq, hp]; rfl

/-- An EVOLVE of a block that is not configured faults (R99). -/
theorem exec_evolve_of_not_configured (hf : s.fault = false) (hn : s.n8 = 0#4) :
    exec .evolve s = .next (raiseFault s .nocfg) := by
  rw [exec, execEvolve, serve_of_no_fault hf, if_pos hn]

/-- Settles O16: the EVOLVE ends in the big step's state, whose cells are the next cells. -/
theorem evolveProducesTheNextGrid : Obligations.EvolveProducesTheNextGrid := by
  refine ⟨fun _ => exec_evolve_of_not_configured, fun s hc => ?_⟩
  have ⟨_, hp, h1, h8⟩ := hc
  refine ⟨_, evolved s, exec_evolve_of_configured hc, settle_evolved hc, fun i => readByte_evolved_grid h1 h8,
    fun i => ?_, fun i hi => ?_, evolved_eq hp⟩
  · rw [evolved_front, Bool.not_not, readByte_evolved, readByte_scanDone_front]
  · rw [evolved_front, readByte_evolved]
    exact readByte_scanDone_trailing h8 (Nat.le_refl _) _ hi

end Sys2Proof.Machine
end

section
/-! PROOFS. R90 to R98, R106: the neighbours of a cell, its count and its next value as pure functions. -/

namespace Sys2Proof.Machine

/-! ### The offsets and the rule -/

/-- Settles O50: the offsets are closed numbers. -/
theorem offsetsAreTheWindowWithoutItsCentre : Obligations.OffsetsAreTheWindowWithoutItsCentre := by
  unfold Obligations.OffsetsAreTheWindowWithoutItsCentre
  decide

/-- Settles O51: for a dead and for a live cell. -/
theorem ruleIsBirthOnThreeSurvivalOnTwoOrThree : Obligations.RuleIsBirthOnThreeSurvivalOnTwoOrThree := by
  intro alive n
  cases alive with
  | false => simp [nextState]
  | true => simp [nextState, or_comm]

section
variable {k k' : Nat} (hk : k < 8)
include hk

theorem offsetX_bounds : -1 ≤ offsetX k ∧ offsetX k ≤ 1 := by
  interval_cases k <;> decide

theorem offsetY_bounds : -1 ≤ offsetY k ∧ offsetY k ≤ 1 := by
  interval_cases k <;> decide

/-- The window's centre is none of the eight (R90). -/
theorem offset_ne_centre : ¬(offsetX k = 0 ∧ offsetY k = 0) := by
  interval_cases k <;> decide

/-- The eight offsets are pairwise distinct (R90). -/
theorem offset_injective (hk' : k' < 8) (hx : offsetX k = offsetX k') (hy : offsetY k = offsetY k') : k = k' := by
  have hall : ∀ k < 8, ∀ k' < 8, offsetX k = offsetX k' → offsetY k = offsetY k' → k = k' := by decide
  exact hall k hk k' hk' hx hy

end

/-! ### One axis of resolve (R91) -/

section
variable {n w : Nat} {v : Int} {p : Policy}

theorem resolveAxis_clamped_eq_none : resolveAxis v n .clamped = none ↔ v < 0 ∨ (n : Int) ≤ v := by
  simp only [resolveAxis, ite_eq_left_iff, reduceCtorEq, imp_false, Decidable.not_not]

theorem eq_of_resolveAxis_clamped (h : resolveAxis v n .clamped = some w) : (w : Int) = v ∧ w < n := by
  simp only [resolveAxis, Option.ite_none_left_eq_some, Option.some.injEq] at h
  omega

/-- The three cases of the toroidal policy are one reduction modulo N (R91, D32). -/
theorem resolveAxis_toroidal (hlo : -1 ≤ v) (hhi : v ≤ n) (hn : 0 < n) :
    resolveAxis v n .toroidal = some ((v + n) % n).toNat := by
  simp only [resolveAxis]
  split
  · next hv => rw [hv, Int.emod_eq_of_lt (by omega) (by omega)]; congr 1; omega
  · next hv =>
    split
    · next hv' => simp [hv']
    · next hv' => rw [Int.add_emod_right, Int.emod_eq_of_lt (by omega) (by omega)]

theorem resolveAxis_lt (hlo : -1 ≤ v) (hhi : v ≤ n) (hn : 0 < n) (h : resolveAxis v n p = some w) : w < n := by
  cases p with
  | clamped => exact (eq_of_resolveAxis_clamped h).2
  | toroidal =>
    rw [resolveAxis_toroidal hlo hhi hn, Option.some.injEq] at h
    have hlt := Int.emod_lt_of_pos (v + n) (Int.natCast_pos.2 hn)
    omega

/-- Three steps in a row of at least three cells lead to three different cells. -/
theorem resolveAxis_toroidal_injective {c : Nat} {d d' : Int} (hn : 3 ≤ n) (hc : c < n) (hd : -1 ≤ d ∧ d ≤ 1)
    (hd' : -1 ≤ d' ∧ d' ≤ 1) (h : resolveAxis (c + d) n .toroidal = resolveAxis (c + d') n .toroidal) : d = d' := by
  simp only [resolveAxis] at h
  split_ifs at h <;> simp only [Option.some.injEq] at h <;> omega

end

/-! ### resolve -/

section
variable {x y n nx ny k : Nat} {dx dy : Int} {p : Policy}

theorem resolve_eq_some_iff :
    resolve x y dx dy n p = some (nx, ny) ↔
      resolveAxis (x + dx) n p = some nx ∧ resolveAxis (y + dy) n p = some ny := by
  unfold resolve
  cases resolveAxis (x + dx) n p <;> cases resolveAxis (y + dy) n p <;> simp

theorem resolve_eq_none_iff :
    resolve x y dx dy n p = none ↔ resolveAxis (x + dx) n p = none ∨ resolveAxis (y + dy) n p = none := by
  unfold resolve
  cases resolveAxis (x + dx) n p <;> cases resolveAxis (y + dy) n p <;> simp

/-- Toroidal, every neighbour is present, at the sum modulo N on each axis (R91, R93). -/
theorem neighbour_toroidal (hx : x < n) (hy : y < n) (hk : k < 8) :
    neighbour x y k n .toroidal =
      some (((x + offsetX k + n) % n).toNat, ((y + offsetY k + n) % n).toNat) := by
  have hdx := offsetX_bounds hk
  have hdy := offsetY_bounds hk
  exact resolve_eq_some_iff.2 ⟨resolveAxis_toroidal (by omega) (by omega) (by omega),
    resolveAxis_toroidal (by omega) (by omega) (by omega)⟩

/-- A neighbour that is not ABSENT is in the grid (R91). -/
theorem neighbour_in_range (hx : x < n) (hy : y < n) (hk : k < 8) (h : neighbour x y k n p = some (nx, ny)) :
    nx < n ∧ ny < n := by
  have hdx := offsetX_bounds hk
  have hdy := offsetY_bounds hk
  obtain ⟨hwx, hwy⟩ := resolve_eq_some_iff.1 h
  exact ⟨resolveAxis_lt (by omega) (by omega) (by omega) hwx, resolveAxis_lt (by omega) (by omega) (by omega) hwy⟩

theorem neighbour_clamped_eq_none_iff :
    neighbour x y k n .clamped = none ↔
      ((x : Int) + offsetX k < 0 ∨ (n : Int) ≤ x + offsetX k ∨ (y : Int) + offsetY k < 0 ∨
        (n : Int) ≤ y + offsetY k) := by
  rw [neighbour, resolve_eq_none_iff, resolveAxis_clamped_eq_none, resolveAxis_clamped_eq_none, or_assoc]

/-- Settles O52: each axis by itself. -/
theorem neighboursResolveByPolicy : Obligations.NeighboursResolveByPolicy := by
  intro n x y k hx hy hk
  refine ⟨fun p nx ny => neighbour_in_range hx hy hk, neighbour_clamped_eq_none_iff, fun nx ny h => ?_,
    _, _, neighbour_toroidal hx hy hk, ?_, ?_⟩
  · obtain ⟨hwx, hwy⟩ := resolve_eq_some_iff.1 h
    exact ⟨(eq_of_resolveAxis_clamped hwx).1, (eq_of_resolveAxis_clamped hwy).1⟩
  · exact Int.toNat_of_nonneg (Int.emod_nonneg _ (by omega))
  · exact Int.toNat_of_nonneg (Int.emod_nonneg _ (by omega))

/-! ### The clamped edges (R92) -/

/-- The offsets that are ABSENT at a cell on the named edges, by R92's table. -/
def absentAt (top bottom left right : Bool) (k : Nat) : Bool :=
  top && decide (k ∈ [0, 1, 2]) || bottom && decide (k ∈ [5, 6, 7]) || left && decide (k ∈ [0, 3, 5]) ||
    right && decide (k ∈ [2, 4, 7])

theorem absentAt_iff {top bottom left right : Prop} [Decidable top] [Decidable bottom] [Decidable left]
    [Decidable right] :
    absentAt (decide top) (decide bottom) (decide left) (decide right) k = true ↔
      (top ∧ k ∈ [0, 1, 2]) ∨ (bottom ∧ k ∈ [5, 6, 7]) ∨ (left ∧ k ∈ [0, 3, 5]) ∨
        (right ∧ k ∈ [2, 4, 7]) := by
  simp only [absentAt, Bool.or_eq_true, Bool.and_eq_true, decide_eq_true_eq, or_assoc]

theorem neighbour_clamped_absent_iff (hn : 2 ≤ n) (hx : x < n) (hy : y < n) (hk : k < 8) :
    neighbour x y k n .clamped = none ↔
      absentAt (decide (y = 0)) (decide (y = n - 1)) (decide (x = 0)) (decide (x = n - 1)) k = true := by
  rw [neighbour_clamped_eq_none_iff, absentAt_iff]
  interval_cases k <;> simp [offsetX, offsetY, windowPos] <;> omega

/-- How many of the eight offsets are present, for the edges on which a cell can lie together. -/
theorem countP_present (top bottom left right : Bool) (hy : (top && bottom) = false) (hx : (left && right) = false) :
    (List.range 8).countP (fun k => !absentAt top bottom left right k) =
      if left ∨ right then (if top ∨ bottom then 3 else 5) else if top ∨ bottom then 5 else 8 := by
  revert top bottom left right
  decide

/-- Settles O53: the ABSENT offsets are those of the edges, and are counted for each combination of edges. -/
theorem clampedEdgesHaveFewerNeighbours : Obligations.ClampedEdgesHaveFewerNeighbours := by
  intro n x y hn hx hy
  refine ⟨fun k hk => (neighbour_clamped_absent_iff hn hx hy hk).trans absentAt_iff, ?_⟩
  have hcount := countP_present (decide (y = 0)) (decide (y = n - 1)) (decide (x = 0)) (decide (x = n - 1))
    (by rw [← Bool.decide_and, decide_eq_false_iff_not]; omega)
    (by rw [← Bool.decide_and, decide_eq_false_iff_not]; omega)
  simp only [decide_eq_true_eq] at hcount
  rw [← hcount]
  refine List.countP_congr fun k hk => ?_
  rw [Option.isSome_iff_ne_none, ne_eq, neighbour_clamped_absent_iff hn hx hy (List.mem_range.1 hk),
    Bool.not_eq_true, Bool.not_eq_true']

/-! ### The toroidal neighbourhood (R93) -/

theorem resolve_toroidal_injective {dx' dy' : Int} (hn : 3 ≤ n) (hx : x < n) (hy : y < n) (hdx : -1 ≤ dx ∧ dx ≤ 1)
    (hdy : -1 ≤ dy ∧ dy ≤ 1) (hdx' : -1 ≤ dx' ∧ dx' ≤ 1) (hdy' : -1 ≤ dy' ∧ dy' ≤ 1)
    (h : resolve x y dx dy n .toroidal = some (nx, ny)) (h' : resolve x y dx' dy' n .toroidal = some (nx, ny)) :
    dx = dx' ∧ dy = dy' := by
  obtain ⟨hwx, hwy⟩ := resolve_eq_some_iff.1 h
  obtain ⟨hwx', hwy'⟩ := resolve_eq_some_iff.1 h'
  exact ⟨resolveAxis_toroidal_injective hn hx hdx hdx' (hwx.trans hwx'.symm),
    resolveAxis_toroidal_injective hn hy hdy hdy' (hwy.trans hwy'.symm)⟩

/-- The window's centre resolves to the cell itself. -/
theorem resolve_centre (hx : x < n) (hy : y < n) : resolve x y 0 0 n .toroidal = some (x, y) := by
  have haxis {c : Nat} (hc : c < n) : resolveAxis (c + 0) n .toroidal = some c := by
    rw [add_zero, resolveAxis, if_neg (by omega), if_neg (by omega), Int.toNat_natCast]
  exact resolve_eq_some_iff.2 ⟨haxis hx, haxis hy⟩

/-- Settles O54: different offsets, the centre among them, resolve to different cells. -/
theorem toroidalCellsHaveEightDistinctNeighbours : Obligations.ToroidalCellsHaveEightDistinctNeighbours := by
  intro n x y hn hx hy
  refine ⟨fun k hk => by rw [neighbour_toroidal hx hy hk]; rfl, fun k k' hk hk' hne h => ?_, fun k hk h => ?_⟩
  · obtain ⟨hdx, hdy⟩ := resolve_toroidal_injective hn hx hy (offsetX_bounds hk) (offsetY_bounds hk)
      (offsetX_bounds hk') (offsetY_bounds hk') (neighbour_toroidal hx hy hk) (h.symm.trans (neighbour_toroidal hx hy hk))
    exact hne (offset_injective hk hk' hdx hdy)
  · exact offset_ne_centre hk (resolve_toroidal_injective hn hx hy (offsetX_bounds hk) (offsetY_bounds hk)
      (by decide) (by decide) h (resolve_centre hx hy))

end

/-! ### The count and the next cell -/

section
variable {rd rd' : Idx → Byte} {x y x' y' n : Nat} {p : Policy}

theorem countLive_eq_sum (rd : Idx → Byte) (x y n : Nat) (p : Policy) :
    countLive rd x y n p = ((List.range 8).map fun k => neighbourValue rd x y k n p).sum := by
  simp [countLive, countUpTo, List.range_succ, add_assoc]

/-- A count is known from what each neighbour adds. -/
theorem countLive_eq_of_values {f : Nat → Nat} (h : ∀ k < 8, neighbourValue rd x y k n p = f k) :
    countLive rd x y n p = ((List.range 8).map f).sum := by
  rw [countLive_eq_sum]
  exact congrArg List.sum (List.map_congr_left fun k hk => h k (List.mem_range.1 hk))

/-- Two cells with equal values and equal neighbours have equal next values (R96). -/
theorem nextCell_congr (hcell : cellGet rd x y n = cellGet rd' x' y' n)
    (h : ∀ k < 8, neighbourValue rd x y k n p = neighbourValue rd' x' y' k n p) :
    nextCell rd x y n p = nextCell rd' x' y' n p := by
  rw [nextCell, nextCell, hcell, countLive_eq_of_values h, ← countLive_eq_sum]

/-- The next value of a cell depends on the cells of the grid only (R106 (a)). -/
theorem nextCell_of_same_cells (h : ∀ x y, x < n → y < n → cellGet rd x y n = cellGet rd' x y n) (hx : x < n)
    (hy : y < n) : nextCell rd x y n p = nextCell rd' x y n p := by
  refine nextCell_congr (h x y hx hy) fun k hk => ?_
  unfold neighbourValue
  split
  · next nx ny hxy =>
    obtain ⟨hnx, hny⟩ := neighbour_in_range hx hy hk hxy
    rw [h nx ny hnx hny]
  · rfl

/-- Bytes that are all 0 hold dead cells only. -/
@[simp] theorem cellGet_zero_bytes (x y n : Nat) : cellGet (fun _ => 0#8) x y n = false := by simp [cellGet]

/-- No cell is born on an all-dead grid (R106 (b)). -/
theorem nextCell_of_dead_grid (x y n : Nat) (p : Policy) : nextCell (fun _ => 0#8) x y n p = false := by
  have hcount : countLive (fun _ => 0#8) x y n p = ((List.range 8).map fun _ => 0).sum :=
    countLive_eq_of_values fun k _ => by unfold neighbourValue; split <;> simp
  rw [nextCell, cellGet_zero_bytes, hcount]
  decide

/-! ### Cyclic shifts (R106 (d)) -/

/-- Shifting and then resolving an axis is resolving and then shifting. -/
theorem emod_shift (c a n : Nat) (d : Int) :
    (((c + a) % n : Nat) + d + n) % n = (((c + d + n) % n) + a) % (n : Int) := by
  rw [Int.natCast_emod, add_assoc, Int.emod_add_emod, Int.emod_add_emod]
  congr 1
  push_cast
  ring

theorem toNat_emod_shift {n : Nat} (hn : 0 < n) (c a : Nat) (d : Int) :
    ((((c + a) % n : Nat) + d + n) % n).toNat = (((c + d + n) % n).toNat + a) % n := by
  have hpos : 0 ≤ (c + d + n) % (n : Int) := Int.emod_nonneg _ (by omega)
  rw [emod_shift]
  zify
  rw [Int.toNat_of_nonneg hpos, Int.toNat_of_nonneg (Int.emod_nonneg _ (by omega))]

/-- Settles O60: the neighbours of a shifted cell are the shifted neighbours. -/
theorem toroidalEvolutionCommutesWithShifts : Obligations.ToroidalEvolutionCommutesWithShifts := by
  intro rd rd' n a b hn hshift x y hx hy
  have hpos : 0 < n := by omega
  refine nextCell_congr (hshift x y hx hy) fun k hk => ?_
  have hnext := neighbour_toroidal hx hy hk
  have hnext' := neighbour_toroidal (Nat.mod_lt (x + a) hpos) (Nat.mod_lt (y + b) hpos) hk
  obtain ⟨hnx, hny⟩ := neighbour_in_range hx hy hk hnext
  rw [toNat_emod_shift hpos, toNat_emod_shift hpos] at hnext'
  simp only [neighbourValue, hnext, hnext', hshift _ _ hnx hny]

/-! ### The block (R106 (c)) -/

/-- The cells of the 2×2 block, seen from its first cell. -/
def blockCell (u v : Int) : Bool := decide ((u = 0 ∨ u = 1) ∧ (v = 0 ∨ v = 1))

/-- Away from the edges both policies find the block's columns and rows at their own places only. -/
theorem resolveAxis_mem_block {a w : Nat} {v : Int} (ha : 1 ≤ a) (han : a + 2 < n) (h : resolveAxis v n p = some w) :
    (w : Int) - a = 0 ∨ (w : Int) - a = 1 ↔ v - a = 0 ∨ v - a = 1 := by
  cases p with
  | clamped => rw [(eq_of_resolveAxis_clamped h).1]
  | toroidal =>
    simp only [resolveAxis] at h
    split_ifs at h <;> simp only [Option.some.injEq] at h <;> omega

theorem resolveAxis_none_not_block {a : Nat} {v : Int} (han : a + 2 < n) (h : resolveAxis v n p = none) :
    ¬(v - a = 0 ∨ v - a = 1) := by
  cases p with
  | clamped => rw [resolveAxis_clamped_eq_none] at h; omega
  | toroidal => simp only [resolveAxis] at h; split_ifs at h

/-- Outside the 4×4 window around the block no cell has a live neighbour; inside it each cell's count is known. -/
theorem nextState_block (u v : Int) :
    nextState (blockCell u v) ((List.range 8).map fun k => (blockCell (u + offsetX k) (v + offsetY k)).toNat).sum =
      blockCell u v := by
  by_cases hnear : (-1 ≤ u ∧ u ≤ 2) ∧ (-1 ≤ v ∧ v ≤ 2)
  · obtain ⟨⟨hu, hu'⟩, hv, hv'⟩ := hnear
    interval_cases u <;> interval_cases v <;> decide
  · have hfar {d e : Int} (hd : -1 ≤ d ∧ d ≤ 1) (he : -1 ≤ e ∧ e ≤ 1) : blockCell (u + d) (v + e) = false :=
      decide_eq_false (by omega)
    have hcount : ((List.range 8).map fun k => (blockCell (u + offsetX k) (v + offsetY k)).toNat) =
        (List.range 8).map fun _ => 0 :=
      List.map_congr_left fun k hk => by
        rw [hfar (offsetX_bounds (List.mem_range.1 hk)) (offsetY_bounds (List.mem_range.1 hk))]; rfl
    have hcell : blockCell u v = false := decide_eq_false (by omega)
    rw [hcount, hcell]
    decide

/-- A neighbour adds to the count what the block has at its place, under both policies. -/
theorem neighbourValue_block {a b k : Nat} (ha : 1 ≤ a) (han : a + 2 < n) (hb : 1 ≤ b) (hbn : b + 2 < n)
    (hblock : ∀ x y, x < n → y < n → cellGet rd x y n = blockCell (x - a) (y - b)) (hx : x < n) (hy : y < n)
    (hk : k < 8) : neighbourValue rd x y k n p = (blockCell (x - a + offsetX k) (y - b + offsetY k)).toNat := by
  rw [sub_add_eq_add_sub, sub_add_eq_add_sub]
  unfold neighbourValue
  split
  · next nx ny hxy =>
    obtain ⟨hnx, hny⟩ := neighbour_in_range hx hy hk hxy
    obtain ⟨hwx, hwy⟩ := resolve_eq_some_iff.1 hxy
    have hsame : blockCell (nx - a) (ny - b) = blockCell (x + offsetX k - a) (y + offsetY k - b) :=
      decide_eq_decide.2 (and_congr (resolveAxis_mem_block ha han hwx) (resolveAxis_mem_block hb hbn hwy))
    rw [hblock nx ny hnx hny, hsame]
  · next hnone =>
    have hdead : blockCell (x + offsetX k - a) (y + offsetY k - b) = false := decide_eq_false fun ⟨hu, hv⟩ =>
      (resolve_eq_none_iff.1 hnone).elim (fun h => resolveAxis_none_not_block han h hu)
        (fun h => resolveAxis_none_not_block hbn h hv)
    rw [hdead]; rfl

/-- The block is a still life (R106 (c)). -/
theorem nextCell_block {a b : Nat} (ha : 1 ≤ a) (han : a + 2 < n) (hb : 1 ≤ b) (hbn : b + 2 < n)
    (hblock : ∀ x y, x < n → y < n → cellGet rd x y n = blockCell (x - a) (y - b)) (hx : x < n) (hy : y < n) :
    nextCell rd x y n p = cellGet rd x y n := by
  rw [nextCell, countLive_eq_of_values fun k hk => neighbourValue_block ha han hb hbn hblock hx hy hk, hblock x y hx hy]
  exact nextState_block _ _

end

end Sys2Proof.Machine
end

section
/-! PROOFS. R106: what one EVOLVE makes of grids that are related, dead, or hold the block. -/

namespace Sys2Proof.Machine

variable {s s' t : State}

/-- The grid bytes after an EVOLVE are known from the next cells (R98, R99). -/
theorem readByte_evolved_of_cells (h1 : 1 ≤ s.n8.toNat) (h8 : s.n8.toNat ≤ 8) {rd : Idx → Byte}
    (h : ∀ x y, x < s.side → y < s.side →
      nextCell (readByte s s.front) x y s.side s.policy = cellGet rd x y s.side) :
    ∀ i : Idx, i.toNat < gridBytes s.side → readByte (evolved s) (evolved s).front i = rd i :=
  (same_bytes_iff_same_cells h1 h8).2 fun x y hx hy => (getCell_evolved h8 hx hy).trans (h x y hx hy)

/-- Settles O57: each new cell is a function of the old grid's cells. -/
theorem evolveDependsOnlyOnTheFrontGrid : Obligations.EvolveDependsOnlyOnTheFrontGrid := by
  intro s s' hc hc' hn8 hpolicy hgrid
  have ⟨_, _, h1, h8⟩ := hc
  have hside : s.side = s'.side := congrArg sideOf hn8
  refine ⟨_, _, settle_evolved hc, hside ▸ settle_evolved hc', readByte_evolved_of_cells h1 h8 fun x y hx hy => ?_⟩
  have hnext' := getCell_evolved (hn8 ▸ h8 : s'.n8.toNat ≤ 8) (hside ▸ hx) (hside ▸ hy)
  rw [← hside, ← hpolicy] at hnext'
  exact (nextCell_of_same_cells ((same_bytes_iff_same_cells h1 h8).1 hgrid) hx hy).trans hnext'.symm

/-- Settles O58: a dead grid has the cells of bytes that are all 0. -/
theorem allDeadGridStaysDead : Obligations.AllDeadGridStaysDead := by
  intro s hc hdead
  have ⟨_, _, h1, h8⟩ := hc
  refine ⟨_, settle_evolved hc, readByte_evolved_of_cells (rd := fun _ => 0#8) h1 h8 fun x y hx hy => ?_⟩
  have hcells := (same_bytes_iff_same_cells (rd' := fun _ => 0#8) h1 h8).1 hdead
  exact (nextCell_of_same_cells hcells hx hy).trans
    ((nextCell_of_dead_grid _ _ _ _).trans (cellGet_zero_bytes _ _ _).symm)

/-- Settles O59: on the block's grid every cell is its own next value. -/
theorem blockIsAStillLife : Obligations.BlockIsAStillLife := by
  intro s a b hc ha han hb hbn hblock
  have ⟨_, _, h1, h8⟩ := hc
  refine ⟨_, settle_evolved hc, readByte_evolved_of_cells h1 h8 fun x y hx hy => ?_⟩
  refine nextCell_block ha han hb hbn (fun x y hx hy => (hblock x y hx hy).trans ?_) hx hy
  exact decide_eq_decide.2 (and_congr (by omega) (by omega))

end Sys2Proof.Machine
end

section
/-! PROOFS. R99 to R105: EVOLVE's acceptance and the rows of the transition table, what they leave unchanged, and that no
step stops. -/

namespace Sys2Proof.Machine

variable {s t : State}

/-- A state that meets the invariants and runs an EVOLVE is in the codec's domain (R26, R105). -/
theorem inDomain_of_inv (hi : Inv s) (hb : s.ph.busy = true) : InDomain s := by
  obtain ⟨hcfg, -, hbusy, hcell, -⟩ := hi
  exact ⟨Nat.pos_of_ne_zero fun h0 => (hbusy hb).1 (BitVec.eq_of_toNat_eq h0), hcfg, hcell⟩

theorem seqStep_answers (hi : Inv s) : ∃ t, seqStep s = .next t := by
  cases hp : s.ph with
  | idle => exact ⟨s, by simp [seqStep, hp]⟩
  | center => exact ⟨_, seqStep_of_center (inDomain_of_inv hi (by rw [hp]; rfl)) hp⟩
  | neigh => exact ⟨_, seqStep_of_neigh (inDomain_of_inv hi (by rw [hp]; rfl)) hp⟩
  | write => exact ⟨_, seqStep_of_write (inDomain_of_inv hi (by rw [hp]; rfl)) hp⟩
  | swap => exact ⟨_, seqStep_of_swap hp⟩
  | faulted => exact ⟨s, by simp [seqStep, hp]⟩

/-- Settles O37: a reset, a micro-step and an acceptance each answer. -/
theorem noStepStops : Obligations.NoStepStops := by
  intro s hi
  match hq : s.pending with
  | [] => rw [step_of_nothing_presented hq]; exact seqStep_answers hi
  | .rst :: rest => exact ⟨_, by rw [step, advance, hq]⟩
  | .quiet :: rest =>
    rw [step, advance, hq]
    exact seqStep_answers (s := { s with pending := rest }) hi
  | .cmd w :: rest =>
    cases hb : s.ph.busy with
    | true => rw [step_of_waiting hq hb]; exact seqStep_answers hi
    | false => rw [step_of_ready hq hb]; exact accept_answers (s := { s with pending := rest }) hi.1 w

/-! ### The frames of CFG and of EVOLVE's acceptance -/

/-- Settles O24: refused, faulting or served, neither command stores a byte. -/
theorem configuringAndStartingFrame : Obligations.ConfiguringAndStartingFrame := by
  refine ⟨fun p m s t h => ?_, fun s t h => ?_⟩
  · rcases execCfg_cases h with ⟨-, rfl⟩ | ⟨hf, ⟨-, rfl⟩ | ⟨-, -, rfl⟩⟩
    · exact ⟨rfl, fun _ => ⟨rfl, rfl⟩, fun _ => ⟨rfl, rfl⟩⟩
    · exact ⟨rfl, by simp [hf], fun _ => ⟨rfl, rfl⟩⟩
    · exact ⟨rfl, fun _ => ⟨rfl, rfl⟩, by simp⟩
  · rcases execEvolve_cases h with ⟨hf, rfl⟩ | ⟨hf, ⟨-, rfl⟩ | ⟨-, rfl⟩⟩
    · exact ⟨rfl, fun _ => rfl, by simp [hf]⟩
    · exact ⟨rfl, by simp [hf], by simp⟩
    · exact ⟨rfl, fun _ => rfl, fun _ _ => rfl⟩

/-! ### The rows of the transition table (R100) -/

theorem exec_evolve_of_n8_ne_zero (hf : s.fault = false) (hn : s.n8 ≠ 0#4) :
    exec .evolve s = .next (startEvolve s) := by
  rw [exec, execEvolve, serve_of_no_fault hf, if_neg hn]

/-- NEIGH's new K and phase, in one equation. -/
theorem seqNeigh_eq (s : State) (hp : s.ph = .neigh) : seqNeigh s = { s with
    cnt := (seqNeigh s).cnt
    k := if s.k = 7 then 7 else s.k + 1
    ph := if s.k = 7 then .write else .neigh } := by
  have hlast : s.k = 7 ↔ ¬ s.k.toNat < 7 := by
    have := s.k.isLt
    rw [← BitVec.toNat_inj]
    show s.k.toNat = 7 ↔ _
    omega
  by_cases hk : s.k = 7
  · rw [if_pos hk, if_pos hk, seqNeigh_of_k_last (hlast.1 hk)]
    simp [← hk]
  · rw [if_neg hk, if_neg hk, seqNeigh_of_k_lt (by_contra fun h => hk (hlast.2 h))]
    simp [← hp]

/-- NEIGH leaves CNT at an ABSENT neighbour (R92). -/
theorem seqNeigh_cnt_of_absent
    (h : neighbour s.cx.toNat s.cy.toNat s.k.toNat s.side s.policy = none) : (seqNeigh s).cnt = s.cnt := by
  have hv : neighbourValue (readByte s s.front) s.cx.toNat s.cy.toNat s.k.toNat s.side s.policy = 0 := by
    rw [neighbourValue, h]
  rw [seqNeigh_cnt, hv]
  exact BitVec.add_zero s.cnt

/-- NEIGH adds the cell of a present neighbour (R94, R108). -/
theorem seqNeigh_cnt_of_present (hck : s.cnt.toNat ≤ s.k.toNat) {nx ny : Nat}
    (h : neighbour s.cx.toNat s.cy.toNat s.k.toNat s.side s.policy = some (nx, ny)) :
    (seqNeigh s).cnt.toNat = s.cnt.toNat + (getCell s s.front nx ny s.side).toNat := by
  rw [seqNeigh_cnt_toNat hck, neighbourValue, h]
  rfl

/-- WRITE's move writes CX, CY and PH only. -/
theorem seqAdvance_eq (s : State) : seqAdvance s = { s with
    cx := (seqAdvance s).cx, cy := (seqAdvance s).cy, ph := (seqAdvance s).ph } := by
  unfold seqAdvance
  split
  · rfl
  · split <;> rfl

/-- WRITE at the last cell leaves CX and CY there (R100). -/
theorem seqWrite_last_cell_stays (hx : s.cx.toNat + 1 = s.side) (hy : s.cy.toNat + 1 = s.side) :
    (seqWrite s).cx = s.cx ∧ (seqWrite s).cy = s.cy := by
  unfold seqWrite seqAdvance
  rw [if_neg (by simpa using hx.ge), if_neg (by simpa using hy.ge)]
  exact ⟨setCell_cx .., setCell_cy ..⟩

/-- Settles O15, row by row. -/
theorem evolveFollowsItsTransitionTable : Obligations.EvolveFollowsItsTransitionTable := by
  refine ⟨fun s hf => ⟨exec_evolve_of_not_configured hf, exec_evolve_of_n8_ne_zero hf⟩, fun s hi => ?_⟩
  have hdomain (hb : s.ph.busy = true) : InDomain s := inDomain_of_inv hi hb
  obtain ⟨hcfg, -, -, -, hcount, -⟩ := hi
  refine ⟨fun hp => seqStep_of_center (hdomain (by rw [hp]; rfl)) hp, fun hp => ?_, fun hp => ?_, seqStep_of_swap⟩
  · refine ⟨(seqNeigh s).cnt, ?_, seqNeigh_cnt_of_absent, fun nx ny => seqNeigh_cnt_of_present (hcount.1 hp).1⟩
    rw [seqStep_of_neigh (hdomain (by rw [hp]; rfl)) hp, ← seqNeigh_eq s hp]
  · refine ⟨_, seqStep_of_write (hdomain (by rw [hp]; rfl)) hp, seqAdvance_eq _, fun hx => ?_, fun hx hy => ?_,
      fun hx hy => ?_⟩
    · obtain ⟨hph, hcx, hcy⟩ := seqWrite_next_column hcfg hx
      exact ⟨hcx, hcy, hph⟩
    · obtain ⟨hph, hcx, hcy⟩ := seqWrite_next_row hcfg hx hy
      exact ⟨hcx, hcy, hph⟩
    · obtain ⟨hcx, hcy⟩ := seqWrite_last_cell_stays hx hy
      exact ⟨hcx, hcy, seqWrite_last_cell hx hy⟩

end Sys2Proof.Machine
end

section
/-! PROOFS. The system commands NOP, CFG and STAT (42_system.md R120 to R122), and the cells read after a CFG
(70_reset_and_hazards.md R162). -/

namespace Sys2Proof.Machine

variable {s : State}

/-! ### NOP -/

theorem exec_nop (hf : s.fault = false) : exec .nop s = .next (respondDone s) := by
  rw [exec, execNop, serve_of_no_fault hf]

theorem exec_nop_of_fault (hf : s.fault = true) : exec .nop s = .next (respond s true (zext16 s.cause)) := by
  rw [exec, execNop, serve_of_fault hf]

/-- Settles O8: outside the fault state NOP only responds, and in it the refusal is the fault state's own. -/
theorem nopRespondsAndChangesNothing : Obligations.NopRespondsAndChangesNothing :=
  fun _ => ⟨exec_nop, exec_nop_of_fault⟩

/-! ### CFG -/

theorem exec_cfg_of_bad_side (hf : s.fault = false) (p : Policy) {m : BitVec 4} (hm : m.toNat = 0 ∨ 8 < m.toNat) :
    exec (.cfg p m) s = .next (raiseFault s .badn) := by
  have hbad : m = 0#4 ∨ 8 < m.toNat := hm.imp_left BitVec.eq_of_toNat_eq
  rw [exec, execCfg, serve_of_no_fault hf, if_pos hbad]

theorem exec_cfg_of_side (hf : s.fault = false) (p : Policy) {m : BitVec 4} (h1 : 1 ≤ m.toNat) (h8 : m.toNat ≤ 8) :
    exec (.cfg p m) s = .next (respondDone (setConfig s p m)) := by
  have hgood : ¬(m = 0#4 ∨ 8 < m.toNat) := by
    rintro (rfl | hm)
    · exact absurd h1 (by decide)
    · omega
  rw [exec, execCfg, serve_of_no_fault hf, if_neg hgood]

/-- Settles O13: the check of n8 comes before the two writes. -/
theorem cfgWritesBothFieldsOrFaults : Obligations.CfgWritesBothFieldsOrFaults :=
  fun _ p _ hf => ⟨exec_cfg_of_bad_side hf p, exec_cfg_of_side hf p⟩

/-- CFG writes no byte (R121). -/
theorem readByte_setConfig (s : State) (p : Policy) (m : BitVec 4) :
    readByte (setConfig s p m) = readByte s := rfl

/-- Settles O49: RDPX reads the bytes that CFG has kept, by the side that CFG has written. -/
theorem reconfigurationReinterpretsTheBytes : Obligations.ReconfigurationReinterpretsTheBytes := by
  intro s p m x y hf hp h1 h8 hx hy
  have hb : s.ph.busy = false := by rw [hp]; rfl
  have hcfg := runCommand_of_exec (decode_encode_cfg p m) hb (exec_cfg_of_side hf p h1 h8) (by simp [hb])
  obtain ⟨-, -, hexec⟩ := rdpxRespondsTheCell (respondDone (setConfig s p m)) x y hf
  have hread := runCommand_of_exec (decode_encode_rdpx x y) (by simp [hb]) (hexec h1 h8 hx hy) (by simp [hb])
  exact ⟨_, runCommands_pair hcfg hread, congrFun₂ (readByte_setConfig s p m), List.append_assoc ..⟩

/-! ### STAT -/

/-- The status word's fields do not overlap, so it is a sum (R16). -/
theorem statusWord_toNat (s : State) : (statusWord s).toNat =
    s.fault.toNat + 2 * s.cause.toNat + 16 * s.front.toNat + 32 * s.policy.toBit.toNat + 64 * s.n8.toNat := by
  simp only [statusWord, append_toNat, BitVec.toNat_ofBool, BitVec.toNat_ofNat]
  omega

/-- Settles O14: the response is the status word, and a word is its number. -/
theorem statRespondsTheStatusWord : Obligations.StatRespondsTheStatusWord := by
  intro s
  rw [← statusWord_toNat, BitVec.ofNat_toNat, BitVec.setWidth_eq]
  rfl

end Sys2Proof.Machine
end

section
/-! PROOFS. Faults (60_exceptions.md R131 to R137): entry, the order of the causes, the fault state, and the block that waits
(R142, R154). -/

namespace Sys2Proof.Machine

variable {s t : State} {w : CmdWord} {rest : List HostAction}

/-! ### Fault entry -/

/-- A response that carries a cause (R59, R134). -/
theorem zext16_cause (c : BitVec 3) : zext16 c = BitVec.ofNat 16 c.toNat := (BitVec.ofNat_toNat 16 c).symm

/-- Settles O17: fault entry is one record update. -/
theorem faultEntryWritesOnlyTheFaultState : Obligations.FaultEntryWritesOnlyTheFaultState := by
  refine ⟨fun s c => ?_, fun _ _ => rfl, rfl, rfl, rfl, rfl⟩
  rw [← zext16_cause]
  rfl

/-- Settles O20: of the effects of accepting the command's word only fault entry ends with FAULT = 1. -/
theorem faultingCommandChangesNothingElse : Obligations.FaultingCommandChangesNothingElse := by
  intro s t i hf h ht
  have ha : accept (encode i) s = .next t := (accept_of_legal (decode_encode i) s).trans h
  cases acceptEffect_of_accept ha with
  | faults c => rfl
  | responds => simp [hf] at ht
  | stores => simp [hf] at ht
  | configures => simp [hf] at ht
  | starts => simp [hf] at ht

/-! ### The order of the causes (R132) -/

/-- What a command leads to that raises the fault `o`, or none. -/
inductive Raises (s : State) : Option Cause → State → Prop where
  | noFault {t : State} (hfault : t.fault = s.fault) (hcause : t.cause = s.cause) : Raises s none t
  | faults (c : Cause) : Raises s (some c) (raiseFault s c)

/-- The fault of RDPX and WRPX at (x, y): configuration first, then the coordinates (R132). -/
def cellFault (s : State) (x y : Coord) : Option Cause :=
  if s.n8 = 0#4 then some .nocfg else if s.side ≤ x.toNat ∨ s.side ≤ y.toNat then some .coord else none

theorem cellFault_of_not_configured (hn : s.n8 = 0#4) (x y : Coord) : cellFault s x y = some .nocfg := if_pos hn

theorem cellFault_of_not_inRange {x y : Coord} (hn : s.n8 ≠ 0#4) (hr : inRange x.toNat y.toNat s.side = false) :
    cellFault s x y = some .coord := by
  refine (if_neg hn).trans (if_pos ?_)
  simpa [inRange, or_iff_not_imp_left] using hr

theorem cellFault_of_codecDefined {x y : Coord} (hd : codecDefined s.n8 x.toNat y.toNat = true) :
    cellFault s x y = none := by
  obtain ⟨h1, -, hx, hy⟩ := (codecDefined_iff _ _ _).1 hd
  have hn : s.n8 ≠ 0#4 := fun h0 => by simp [h0] at h1
  exact (if_neg hn).trans (if_neg (not_or.2 ⟨hx.not_ge, hy.not_ge⟩))

/-- The checks that RDPX and WRPX share raise `cellFault`. -/
theorem raises_of_withCell {x y : Coord} {body : State → State} (h : withCell x y s body = .next t)
    (hfault : (body s).fault = s.fault) (hcause : (body s).cause = s.cause) : Raises s (cellFault s x y) t := by
  rcases withCell_cases h with ⟨hn, rfl⟩ | ⟨hn, hr, rfl⟩ | ⟨hd, rfl⟩
  · rw [cellFault_of_not_configured hn]; exact .faults .nocfg
  · rw [cellFault_of_not_inRange hn hr]; exact .faults .coord
  · rw [cellFault_of_codecDefined hd]; exact .noFault hfault hcause

/-- A word accepted outside the fault state raises the fault `faultOf` gives, and no other (R131, R132). -/
theorem raises_of_accept (hf : s.fault = false) (h : accept w s = .next t) : Raises s (faultOf w s) t := by
  unfold faultOf
  rw [accept] at h
  cases hw : decode w with
  | illegal why =>
    simp only [hw, serve_of_no_fault hf] at h
    cases h; exact .faults .illcmd
  | legal i =>
    simp only [hw] at h
    cases i with
    | rdpx x y =>
      rw [exec, execRdpx, serve_of_no_fault hf] at h
      exact raises_of_withCell h rfl rfl
    | wrpx x y v =>
      rw [exec, execWrpx, serve_of_no_fault hf] at h
      exact raises_of_withCell h (by simp) (by simp)
    | evolve =>
      rw [exec, execEvolve, serve_of_no_fault hf] at h
      dsimp only at h ⊢
      split at h
      · next hn => cases h; rw [if_pos hn]; exact .faults .nocfg
      · next hn => cases h; rw [if_neg hn]; exact .noFault rfl rfl
    | cfg p m =>
      dsimp only
      split
      · next hm =>
        rw [exec_cfg_of_bad_side hf p hm] at h
        cases h; exact .faults .badn
      · next hm =>
        rw [exec_cfg_of_side hf p (by omega) (by omega)] at h
        cases h; exact .noFault rfl rfl
    | nop => rw [exec_nop hf] at h; cases h; exact .noFault rfl rfl
    | ldb idx data => rw [exec_ldb hf] at h; cases h; exact .noFault (by simp) (by simp)
    | rdb idx => rw [exec_rdb hf] at h; cases h; exact .noFault rfl rfl
    | stat => cases h; exact .noFault rfl rfl

/-- Settles O19: an idle block that meets R26 is not in the fault state, so it accepts the word, which raises `faultOf`. -/
theorem faultsComeInTheirPriority : Obligations.FaultsComeInTheirPriority := by
  intro s w rest hi hq hp
  obtain ⟨hcfg, ⟨hcause, -, hfaulted⟩, -⟩ := hi
  have hf : s.fault = false := by simpa [hp] using hfaulted
  obtain ⟨t, ht⟩ := accept_answers (s := { s with pending := rest }) hcfg w
  refine ⟨t, by rw [step_of_ready hq (by rw [hp]; rfl), ht], ?_⟩
  have hr : Raises { s with pending := rest } (faultOf w s) t := raises_of_accept hf ht
  generalize faultOf w s = o at hr
  cases hr with
  | noFault hfault' hcause' => exact ⟨hfault'.trans hf, hcause'.trans (hcause.2 hf)⟩
  | faults c => exact ⟨rfl, rfl, rfl⟩

/-! ### The fault state (R135) -/

/-- Every command but STAT asks `serve` before anything else, which refuses it. -/
theorem exec_of_fault (hf : s.fault = true) {i : Instr} (hi : i ≠ .stat) :
    exec i s = .next (respond s true (zext16 s.cause)) := by
  cases i with
  | stat => exact absurd rfl hi
  | _ => exact if_pos hf

/-- In the fault state a word that is not STAT's is refused, legal or not. -/
theorem accept_of_fault (hf : s.fault = true) (hw : decode w ≠ .legal .stat) :
    accept w s = .next (respond s true (zext16 s.cause)) := by
  cases hd : decode w with
  | legal i => rw [accept_of_legal hd, exec_of_fault hf fun hi => hw (hi ▸ hd)]
  | illegal why => rw [accept, hd]; exact serve_of_fault hf

/-- In the fault state a word is answered, and that is all. -/
theorem accept_responds_of_fault (hf : s.fault = true) (w : CmdWord) : ∃ e d, accept w s = .next (respond s e d) := by
  by_cases hw : decode w = .legal .stat
  · exact ⟨_, _, accept_of_legal hw s⟩
  · exact ⟨_, _, accept_of_fault hf hw⟩

/-- A block that runs no EVOLVE has no micro-step to take (R142). -/
theorem seqStep_of_not_busy (hb : s.ph.busy = false) : seqStep s = .next s := by
  rcases idle_or_faulted_of_not_busy hb with hp | hp <;> rw [seqStep, hp]

/-- A step in the fault state, with only command words presented, changes nothing but what is presented and answered. -/
theorem step_of_fault (hf : s.fault = true) (hp : s.ph = .faulted) (hq : onlyCommands s.pending = true) :
    ∃ q rs, step s = .next { s with pending := q, responses := rs } ∧ onlyCommands q = true := by
  have hb : s.ph.busy = false := by rw [hp]; rfl
  match hs : s.pending with
  | [] => exact ⟨s.pending, s.responses, by rw [step_of_nothing_presented hs, seqStep_of_not_busy hb], hq⟩
  | .cmd w :: rest =>
    obtain ⟨e, d, ha⟩ := accept_responds_of_fault (s := { s with pending := rest }) hf w
    exact ⟨rest, _, (step_of_ready hs hb).trans ha, by simpa [hs, onlyCommands] using hq⟩
  | .quiet :: rest => simp [hs, onlyCommands] at hq
  | .rst :: rest => simp [hs, onlyCommands] at hq

/-- Any number of such steps (R135, R137), by induction on their number. -/
theorem run_of_fault (n : Nat) (hf : s.fault = true) (hp : s.ph = .faulted) (hq : onlyCommands s.pending = true) :
    ∃ t, Host.Core.run core n s = .next t ∧ t = { s with pending := t.pending, responses := t.responses } := by
  induction n generalizing s with
  | zero => exact ⟨s, rfl, rfl⟩
  | succ n ih =>
    obtain ⟨q, rs, hs, hq'⟩ := step_of_fault hf hp hq
    obtain ⟨t, hrun, ht⟩ := ih (s := { s with pending := q, responses := rs }) hf hp hq'
    exact ⟨t, (core_run_succ hs n).trans hrun, ht⟩

/-- Settles O21: every word is answered without a change of state, so by induction no number of words makes one. -/
theorem faultStateServesOnlyStat : Obligations.FaultStateServesOnlyStat := by
  refine ⟨fun s w rest hq hf hp => ?_, fun n s => run_of_fault n⟩
  rw [step_of_ready hq (by rw [hp]; rfl), ← zext16_cause]
  exact ⟨fun hw => accept_of_legal hw _, accept_of_fault (s := { s with pending := rest }) hf⟩

/-! ### A block that is presented nothing (R142, R154) -/

/-- A pause of the host is used up, and the step is the sequencer's. -/
theorem step_of_quiet (hq : s.pending = .quiet :: rest) : step s = seqStep { s with pending := rest } := by
  rw [step, advance, hq]

/-- Settles O30: the step is the sequencer's, which takes none in IDLE and FAULTED. -/
theorem idleBlockKeepsAllState : Obligations.IdleBlockKeepsAllState := by
  refine ⟨fun s hq hb => ?_, fun s rest hq hb => ?_, rfl⟩
  · rw [step_of_nothing_presented hq, seqStep_of_not_busy hb]
  · exact (step_of_quiet hq).trans (seqStep_of_not_busy (s := { s with pending := rest }) hb)

end Sys2Proof.Machine
end

section
/-! PROOFS. The banks after a reset (70_reset_and_hazards.md section 1, R153). -/

namespace Sys2Proof.Machine

/-- A bank that lists no byte reads as the free values of the current reset (R25). -/
theorem readByte_of_bank_nil {s : State} {b : Bank} (hb : bank s b = []) (i : Idx) :
    readByte s b i = Config.gReset s.resets b i := by
  simp [readByte, hb, Memory.find, unwritten]

theorem bank_reset (b : Bank) : bank State.reset b = [] := by cases b <;> rfl

/-- Reset forgets what either bank held (R153). -/
theorem bank_takeReset (s : State) (b : Bank) : bank (takeReset s) b = [] := bank_reset b

/-- Settles O32: a reset lists no byte in either bank, and its number is the next one. -/
theorem resetFreesEveryBankByte : Obligations.ResetFreesEveryBankByte := by
  refine ⟨fun b => readByte_of_bank_nil (bank_reset b), fun s rest hq => ⟨_, step_of_rst hq, ?_, fun b => ?_⟩⟩
  · exact Nat.succ_ne_self s.resets
  · exact readByte_of_bank_nil (bank_takeReset _ b)

end Sys2Proof.Machine
end
